-- ==== Sys2Proof/Word.lean ====
section
/-! DEFINITION. The words the engine computes with (spec 00_scope.md R11, R12). -/

namespace Sys2Proof

/-- A byte, 0 to 255 (R11). -/
abbrev Byte := BitVec 8

/-- A 32-bit word, bit 0 the least significant (R11). -/
abbrev Word := BitVec 32

/-- A block: exactly 16 bytes, `B[0]` first in text order (R12). -/
abbrev Block := Vector Byte 16

/-- A block register group: the four 32-bit registers R0 to R3 of IV, DIN, DOUT or CHAIN (R12, R62). -/
abbrev RegGroup := Vector Word 4

end Sys2Proof
end

