-- ==== Sys2Proof/Syntax.lean ====
section
/-! DEFINITION. The eleven commands of the engine (spec 30_encoding.md R82, opcode_table.json). -/

namespace Sys2Proof

/-- One command: what one write to CMD asks for. Only ENC_FINAL has an operand in its word, the 4-bit
NBYTES field n (R81); every other opcode ignores that field (R83). -/
inductive Instr where
  /-- NOP, OP 0 (R182). -/
  | nop
  /-- START_ENC, OP 1 (R183). -/
  | startEnc
  /-- START_DEC, OP 2 (R184). -/
  | startDec
  /-- ENC_BLOCK, OP 3 (R132). -/
  | encBlock
  /-- ENC_FINAL, OP 4, with n valid plaintext bytes in DIN (R162). -/
  | encFinal (n : BitVec 4)
  /-- DEC_BLOCK, OP 5 (R133). -/
  | decBlock
  /-- DEC_FINAL, OP 6 (R163). -/
  | decFinal
  /-- RAW_ENC, OP 7 (R113). -/
  | rawEnc
  /-- RAW_DEC, OP 8 (R114). -/
  | rawDec
  /-- LOAD_CHAIN, OP 9 (R134). -/
  | loadChain
  /-- ABORT, OP 10 (R185). -/
  | abort
deriving DecidableEq, Repr

end Sys2Proof
end

