-- ==== Sys2Proof/WellFormed.lean ====
section
/-! DEFINITION. What the types do not already rule out: which byte lists are alphabets, which words are the
assembler's command words, and that a command's operand fits its field (spec R9, R80, R81, R100). -/

namespace Sys2Proof

/-- An instruction is well formed when its operand fits the field that encodes it: NBYTES is 4 bits (R81).
The operand's type already says so, so this holds of every instruction (`Laws.wellFormed_all`). -/
def Instr.wellFormed : Instr → Bool
  | .encFinal n => decide (n.toNat ≤ 15)
  | .nop | .startEnc | .startDec | .encBlock | .decBlock | .decFinal => true
  | .rawEnc | .rawDec | .loadChain | .abort => true

/-- The word of an assembled command (R80, R89): reserved bits zero, a defined opcode, and NBYTES zero for
every opcode but ENC_FINAL. Other words decode too (R83); the assembler does not write them. -/
def commandWordOk (w : Word) : Bool :=
  decide (w.toNat < 256) && decide (w.toNat % 16 ≤ 10) && (decide (w.toNat % 16 = 4) || decide (w.toNat < 16))

/-- A printable alphabet: ordered, free of duplicates, of length N_P with 1 ≤ N_P ≤ 255 (R9, R100). -/
def printableOk (A : List Byte) : Bool :=
  decide (1 ≤ A.length) && decide (A.length ≤ 255) && decide A.Nodup

end Sys2Proof
end

