-- ==== Sys2Proof/Config.lean ====
section
/-! DEFINITION. What a build of the engine fixes (PRINT_ALPHA, ENGINE_BASE: spec 00_scope.md R9), and the free
values: what the spec draws as `any` (R13). Nothing in Lean can evaluate an opaque constant without a body. -/

namespace Sys2Proof.Config

/-- The raw choice behind PRINT_ALPHA: any list of bytes at all. DESIGN CHOICE, log 9: safe. -/
opaque printAlphaSeed : List Byte

/-- Makes a printable alphabet of any list of bytes: without duplicates, at most 255 bytes, not empty. It leaves
every legal printable alphabet as it is (`Laws.normalise_of_ok`), so that its values are exactly the
alphabets R9 allows. -/
def normalise (raw : List Byte) : List Byte :=
  match raw.dedup.take 255 with
  | [] => [0#8]
  | a :: as => a :: as

/-- PRINT_ALPHA, the ordered, duplicate-free list of the printable alphabet's bytes (R9, R100): OPEN. -/
def printAlpha : List Byte := normalise printAlphaSeed

/-- ENGINE_BASE, the platform address of offset 0x00 (R9, R68): OPEN. DESIGN CHOICE, log 10: safe. -/
opaque engineBase : Nat

/-- The offset in the engine's 256-byte window that a platform address selects, if it does (R60 `sel`, R68). -/
def windowOffset (addr : Nat) : Option (BitVec 8) :=
  if engineBase ≤ addr ∧ addr < engineBase + 256 then some (BitVec.ofNat 8 (addr - engineBase)) else none

/-- What the d-th `any` read returns: a free value, with no relation to any register (R13, R64). Log 6: safe. -/
opaque anyWord : Nat → Word

/-- The byte that variant (b) would pad with when its offset lies outside DIN, a case E_PAD_RANGE rejects at issue
(R154), so that no run reaches it: a free value. Log 11: safe. -/
opaque noSuchByte : Nat → Byte

end Sys2Proof.Config
end

