-- ==== Sys2Proof/Decode.lean ====
section
/-! DEFINITION. Command words: the decoder, total and rejecting by name, and after it the encoder
(spec 30_encoding.md R80 to R84, R88). -/

namespace Sys2Proof

/-- Why a command word is no command: its opcode is one of 11 to 15 (R84). -/
inductive DecodeError where
  | illegalOp (op : BitVec 4)
deriving DecidableEq, Repr

/-- OP, bits [3:0] (R80). -/
def opField (w : Word) : BitVec 4 := w.extractLsb' 0 4

/-- NBYTES, bits [7:4], unsigned and not scaled (R80, R81). -/
def nbytesField (w : Word) : BitVec 4 := w.extractLsb' 4 4

/-- The command a word names: OP, then NBYTES if OP = 4, and nothing else (R82, R83, R88). -/
def decode (w : Word) : Except DecodeError Instr :=
  match (opField w).toNat with
  | 0 => .ok .nop
  | 1 => .ok .startEnc
  | 2 => .ok .startDec
  | 3 => .ok .encBlock
  | 4 => .ok (.encFinal (nbytesField w))
  | 5 => .ok .decBlock
  | 6 => .ok .decFinal
  | 7 => .ok .rawEnc
  | 8 => .ok .rawDec
  | 9 => .ok .loadChain
  | 10 => .ok .abort
  | _ => .error (.illegalOp (opField w))

/-- OP of a command (R82). -/
def opcode : Instr → BitVec 4
  | .nop => 0
  | .startEnc => 1
  | .startDec => 2
  | .encBlock => 3
  | .encFinal _ => 4
  | .decBlock => 5
  | .decFinal => 6
  | .rawEnc => 7
  | .rawDec => 8
  | .loadChain => 9
  | .abort => 10

/-- NBYTES of a command: n for ENC_FINAL; 0, its default, for every other opcode (R89). -/
def nbytes : Instr → BitVec 4
  | .encFinal n => n
  | .nop | .startEnc | .startDec | .encBlock | .decBlock | .decFinal => 0
  | .rawEnc | .rawDec | .loadChain | .abort => 0

/-- The word of a command: `(n << 4) | OP`, reserved bits zero (R80, R89). -/
def encode (i : Instr) : Word :=
  ((nbytes i).setWidth 32 <<< 4) ||| (opcode i).setWidth 32

/-- What the decoder reads from an opcode-table word whose low `nbits` bits are `w`. A command is one 32-bit word (R88). -/
def decodeTableWord (nbits w : Nat) : Option Instr :=
  (decode (BitVec.ofNat 32 (w % 2 ^ nbits))).toOption

end Sys2Proof
end

