-- ==== Sys2Proof/Machine/State.lean ====
section
/-! DEFINITION. Everything the spec gives the engine (10_state.md R20 to R42), as plain data, the events of the
host and of the engine (R16), and the state after reset (R41). -/

namespace Sys2Proof.Machine

/-- STATUS.STATE, the session state machine (R26, R180). The code 3 is never produced. -/
inductive Session where
  | idle
  | enc
  | dec
deriving DecidableEq, Repr

/-- STATUS.ERR, the error codes of R200. The codes 8 to 15 are never produced. -/
inductive ErrCode where
  /-- 0, NONE. -/
  | none
  /-- 1, E_ILLEGAL: OP 11 to 15. -/
  | illegal
  /-- 2, E_BUSY: an access that BUSY = 1 rejects or drops. -/
  | busy
  /-- 3, E_SEQ: a command not legal in STATUS.STATE. -/
  | seq
  /-- 4, E_LOCKED: a CTRL or KEY write outside IDLE. -/
  | locked
  /-- 5, E_LEN: MSGLEN has no room for another block. -/
  | len
  /-- 6, E_PAD_RANGE: variant (b) has no byte to pad with. -/
  | padRange
  /-- 7, E_BAD_PAD: the unpad's count exceeds the text. -/
  | badPad
deriving DecidableEq, Repr

/-- PADINFO (R35). -/
structure PadInfo where
  /-- PADCNT, bits [7:0]. -/
  padCnt : Byte
  /-- PADBYTE, bits [15:8]. -/
  padByte : Byte
  /-- UNPAD_SKIPPED, bit [16]. -/
  unpadSkipped : Bool
deriving DecidableEq, Repr

/-- The registers of the window (R20). -/
inductive Reg where
  | cap
  | ctrl
  | status
  | irqen
  | cmd
  | key
  | msglen
  | outlen
  | padinfo
  | iv (i : Fin 4)
  | din (i : Fin 4)
  | dout (i : Fin 4)
  | chain (i : Fin 4)
  | reserved
deriving DecidableEq, Repr

/-- How wide a bus access is. The bus carries only whole 32-bit accesses (R65). -/
inductive Width where
  | byte
  | half
  | word
deriving DecidableEq, Repr

/-- `we` and `wdata` (R60): a read, or a write of a word. -/
inductive BusOp where
  | read
  | write (w : Word)
deriving DecidableEq, Repr

/-- One bus access to the window, at a byte offset from ENGINE_BASE (R60, R61). -/
structure Access where
  width : Width
  off : BitVec 8
  op : BusOp
deriving DecidableEq, Repr

/-- What can happen next: a step of the host, or the engine's turn (R16, R70, R230). -/
inductive Event where
  /-- A bus access that selects the engine. -/
  | bus (a : Access)
  /-- A bus access at a platform address: it selects the engine if the address lies in its window (R68). -/
  | busAt (addr : Nat) (width : Width) (op : BusOp)
  /-- The engine's turn: its completion step, if it is enabled (R71, R87). -/
  | engine
  /-- A whole reset pulse: the host step `reset` of R230. -/
  | reset
  /-- rst_n goes low (R230). -/
  | rstLow
  /-- rst_n is released (R230). -/
  | rstHigh
deriving DecidableEq, Repr

/-- One value the rdata port returned, with the offset that was read: `R oo = dddddddd` of R90. -/
structure ReadValue where
  off : BitVec 8
  value : Word
deriving DecidableEq, Repr

/-- The state of the engine, and of the model around it (the last three fields). -/
structure State where
  /-- CTRL.ALPHA_SEL (R22): false = full alphabet, true = printable alphabet. -/
  alphaSel : Bool
  /-- STATUS.STATE (R26, R180). -/
  session : Session
  /-- STATUS.DONE (R26). -/
  done : Bool
  /-- STATUS.ERR (R26, R203). -/
  err : ErrCode
  /-- PEND, the accepted command in flight (R37). STATUS.BUSY is 1 exactly when it is defined (`State.busy`). -/
  pend : Option Instr
  /-- IRQEN.IE_DONE (R28). -/
  ieDone : Bool
  /-- IRQEN.IE_ERR (R28). -/
  ieErr : Bool
  /-- KEY (R24). -/
  key : Word
  /-- MSGLEN (R33). -/
  msgLen : Word
  /-- OUTLEN (R34). -/
  outLen : Word
  /-- PADINFO (R35). -/
  padInfo : PadInfo
  /-- IV0 to IV3 (R25). -/
  iv : RegGroup
  /-- DIN0 to DIN3 (R30). -/
  din : RegGroup
  /-- DOUT0 to DOUT3 (R31). -/
  dout : RegGroup
  /-- CHAIN0 to CHAIN3 (R32). -/
  chain : RegGroup
  /-- HEAD[0..16], the first 17 plaintext bytes of the encrypt session (R36). -/
  head : Vector Byte 17
  /-- The rst_n pin: false = low = the engine is held in reset (R60, R230). -/
  rstN : Bool
  /-- The model's own: what happens next, first event first (log 1). -/
  inputs : List Event
  /-- The model's own: what rdata has returned, oldest first (log 7). -/
  reads : List ReadValue
  /-- The model's own: how many `any` values have been drawn (log 6). -/
  draws : Nat
deriving DecidableEq, Repr

/-- The machine never stops with a fault: the engine has no trap, and every error of R200 is a code recorded in
STATUS.ERR with a next state (R203, R206). So this type has no constructor. -/
inductive Fault where
deriving DecidableEq, Repr

/-- Why a step has no meaning. -/
inductive Refusal where
  /-- Raised by an arm of `exec` whose instruction has no meaning yet; no arm does. Safe. -/
  | notModelled (mnemonic : String)
  /-- Raised by a bus access narrower than 32 bits: "a model must refuse narrow accesses rather than guess
  their effect" (R65). Safe: the model stops where a platform bridge would go on. -/
  | narrowAccess
deriving DecidableEq, Repr

/-- The state after reset: every value is R41's; the model's own fields are empty. -/
def State.reset : State where
  alphaSel := false
  session := .idle
  done := false
  err := .none
  pend := Option.none
  ieDone := false
  ieErr := false
  key := 0
  msgLen := 0
  outLen := 0
  padInfo := { padCnt := 0, padByte := 0, unpadSkipped := false }
  iv := Vector.replicate 4 0
  din := Vector.replicate 4 0
  dout := Vector.replicate 4 0
  chain := Vector.replicate 4 0
  head := Vector.replicate 17 0
  rstN := true
  inputs := []
  reads := []
  draws := 0

/-- STATUS.BUSY: 1 exactly when PEND is defined (R37, R42). -/
def State.busy (s : State) : Bool := s.pend.isSome

end Sys2Proof.Machine
end

