-- ==== Sys2Proof/Machine/Flags.lean ====
section
/-! DEFINITION. The flags and the words they are read as: STATUS, CTRL, IRQEN, PADINFO, CAP, and the interrupt
output (spec 10_state.md R22 to R28, R35, R38, R40). -/

namespace Sys2Proof.Machine

/-- The code of STATUS.STATE (R26). -/
def Session.code : Session → BitVec 2
  | .idle => 0
  | .enc => 1
  | .dec => 2

/-- The code of STATUS.ERR (R200). -/
def ErrCode.code : ErrCode → BitVec 4
  | .none => 0
  | .illegal => 1
  | .busy => 2
  | .seq => 3
  | .locked => 4
  | .len => 5
  | .padRange => 6
  | .badPad => 7

/-- A one-bit field as a word. -/
def bit (b : Bool) : Word := (BitVec.ofBool b).setWidth 32

/-- STATUS as read: `zext_32(ERR << 4 | DONE << 3 | STATE << 1 | BUSY)` (R26). -/
def State.statusWord (s : State) : Word :=
  (s.err.code.setWidth 32 <<< 4) ||| (bit s.done <<< 3) ||| (s.session.code.setWidth 32 <<< 1) ||| bit s.busy

/-- CTRL as read (R22). -/
def State.ctrlWord (s : State) : Word := bit s.alphaSel

/-- IRQEN as read (R28). -/
def State.irqenWord (s : State) : Word := (bit s.ieErr <<< 1) ||| bit s.ieDone

/-- PADINFO as read (R35). -/
def PadInfo.word (p : PadInfo) : Word :=
  (bit p.unpadSkipped <<< 16) ||| (p.padByte.setWidth 32 <<< 8) ||| p.padCnt.setWidth 32

/-- CAP for a printable alphabet of `np` bytes: BLOCK_BYTES = 16 in [7:0], N_P in [15:8] (R23). -/
def capWord (np : Nat) : Word := ((BitVec.ofNat 8 np).setWidth 32 <<< 8) ||| 0x10

/-- The effect of writing w to STATUS on DONE: w[3] clears it (R27). -/
def doneAfterWrite (w : Word) (done : Bool) : Bool := if w.getLsbD 3 then false else done

/-- The effect of writing w to STATUS on ERR: w[8], ERRCLR, clears it (R27). -/
def errAfterWrite (w : Word) (err : ErrCode) : ErrCode := if w.getLsbD 8 then .none else err

/-- The interrupt output, a level (R38, R209). -/
def State.irq (s : State) : Bool := (s.ieDone && s.done) || (s.ieErr && decide (s.err ≠ .none))

end Sys2Proof.Machine
end

