-- ==== Sys2Proof/Machine/Operands.lean ====
section
/-! DEFINITION. The operand forms: a block in its four registers, the active alphabet, the key, the length
counter (spec 20_memory.md R62, 10_state.md R39, 30_encoding.md R81). -/

namespace Sys2Proof.Machine

/-- `blk(R)`: byte i of the block is bits [8*(i mod 4)+7 : 8*(i mod 4)] of word R(i div 4) (R62). -/
def blk (r : RegGroup) : Block :=
  Vector.ofFn fun i : Fin 16 => (r[i.val / 4]'(by omega)).extractLsb' (8 * (i.val % 4)) 8

/-- A little-endian word of four bytes (R62). -/
def packWord (b0 b1 b2 b3 : Byte) : Word :=
  b0.setWidth 32 ||| (b1.setWidth 32 <<< 8) ||| (b2.setWidth 32 <<< 16) ||| (b3.setWidth 32 <<< 24)

/-- `R <- B`: the four words of a block (R62). -/
def pack (b : Block) : RegGroup :=
  Vector.ofFn fun j : Fin 4 =>
    packWord (b[4 * j.val]'(by omega)) (b[4 * j.val + 1]'(by omega))
      (b[4 * j.val + 2]'(by omega)) (b[4 * j.val + 3]'(by omega))

/-- FULL, the 256 byte values in numeric order (R8, R103). -/
def fullAlphabet : List Byte := (List.range 256).map (BitVec.ofNat 8)

/-- The alphabet that a value of CTRL.ALPHA_SEL selects (R39). -/
def alphabetOf (alphaSel : Bool) : List Byte :=
  if alphaSel then Config.printAlpha else fullAlphabet

/-- The active alphabet A; its length is N (R39). -/
def State.alphabet (s : State) : List Byte := alphabetOf s.alphaSel

/-- The key k as an unsigned number (R24). -/
def State.keyNat (s : State) : Nat := s.key.toNat

/-- MSGLEN as a number of bytes (R33). -/
def State.len (s : State) : Nat := s.msgLen.toNat

end Sys2Proof.Machine
end

