-- ==== Sys2Proof/Machine/Ops.lean ====
section
/-! DEFINITION. The operations the meanings share: ending a step, recording an error and clearing it (the
engine's "trap entry" and "return", spec 60_exceptions.md R203, R206, R207), the two steps of a command
(30_encoding.md R85, R87), and reset (70_reset_and_hazards.md R230). -/

namespace Sys2Proof.Machine

/-- Ends the step of the event at the head of the inputs: that event is over. Log 1. -/
def State.endStep (s : State) : State := { s with inputs := s.inputs.tail }

/-- What ERR holds after error c is recorded: the first error since it was last cleared (R203, R208). -/
def firstError (err c : ErrCode) : ErrCode := if err = .none then c else err

/-- `raise Error(c)` and `record Error(c)` (R203). Nothing but ERR changes: no state is saved, no mode changes (R206). -/
def recordError (c : ErrCode) (s : State) : State := { s with err := firstError s.err c }

/-- A write of w to STATUS, accepted in every state: w[3] clears DONE, w[8] (ERRCLR) clears ERR; this is the only
return from an error (R27, R207). -/
def writeStatus (w : Word) (s : State) : State :=
  { s with done := doneAfterWrite w s.done, err := errAfterWrite w s.err }

/-- A command is accepted: `PEND <- (op, n)`, and with it BUSY <- 1 (R85). -/
def State.accept (i : Instr) (s : State) : State := { s with pend := some i }

/-- The issue of command i, whose own checks found `rejected` (R85, R204): E_BUSY first, then the first failure. -/
def issue (i : Instr) (rejected : Option ErrCode) (s : State) : State :=
  if s.busy then recordError .busy s
  else match rejected with
    | some c => recordError c s
    | none => s.accept i

/-- The issue of a word whose opcode is 11 to 15 (R84, R85). -/
def issueIllegal (s : State) : State :=
  if s.busy then recordError .busy s else recordError .illegal s

/-- What every completion does after the command's effect: BUSY <- 0, DONE <- 1, PEND <- none (R87). -/
def State.finish (s : State) : State := { s with pend := none, done := true }

/-- It is the engine's turn: the schedule gives it the turn, or the host asks for nothing more. Log 1. -/
def State.engineMoves (s : State) : Bool :=
  match s.inputs with
  | [] => true
  | .engine :: _ => true
  | _ => false

/-- The step of command i that is due (R13): its completion, if it is the engine's turn and i is in flight
(R87); else its issue (R85). Log 18. `check` finds the first of the command's own checks that fails; `effect` is its
effect, which reads every operand from the state at the start of the step. -/
def runCommand (i : Instr) (check : State → Option ErrCode) (effect : State → State) (s : State) :
    Host.Outcome State Fault Refusal :=
  if s.engineMoves ∧ s.pend = some i then .next (effect s).finish.endStep
  else .next (issue i (check s) s).endStep

/-- Legal only in session state q, otherwise E_SEQ (R82, R85). -/
def requireSession (q : Session) (s : State) : Option ErrCode :=
  if s.session = q then none else some .seq

/-- The largest value of MSGLEN (R33). -/
def maxLen : Nat := 0xFFFFFFF0

/-- Another block must fit: MSGLEN < 0xFFFFFFF0, otherwise E_LEN (R33, R85). -/
def requireRoom (s : State) : Option ErrCode :=
  if maxLen ≤ s.len then some .len else none

/-- The first of two checks that fails (R85: "the first failure rejects the command"). -/
def firstFailure (a b : Option ErrCode) : Option ErrCode :=
  match a with
  | some c => some c
  | none => b

/-- A whole reset pulse: every piece of the engine's state takes its reset value, a command in flight is discarded
(R230, R232). The model's own fields go on. -/
def resetPulse (s : State) : State :=
  { State.reset with inputs := s.inputs.tail, reads := s.reads, draws := s.draws }

/-- rst_n goes low: every piece of the engine's state takes its reset value and is held there (R230). -/
def assertReset (s : State) : State := { resetPulse s with rstN := false }

/-- rst_n is released (R230). -/
def releaseReset (s : State) : State := { s with rstN := true, inputs := s.inputs.tail }

end Sys2Proof.Machine
end

