-- ==== Sys2Proof/Machine/Control.lean ====
section
/-! DEFINITION. Session control: the commands NOP, START_ENC, START_DEC and ABORT (spec 43_pipeline.md R180 to R185). -/

namespace Sys2Proof.Machine

/-- START_ENC and START_DEC open session q: CHAIN takes the IV, and every piece of state a session threads is cleared
(R183, R184). -/
def openSession (q : Session) (s : State) : State :=
  { s with
    chain := s.iv
    msgLen := 0
    outLen := 0
    padInfo := { padCnt := 0, padByte := 0, unpadSkipped := false }
    head := Vector.replicate 17 0
    session := q }

/-- START_ENC's effect (R183). -/
def startEncEffect (s : State) : State := openSession .enc s

/-- START_DEC's effect (R184). -/
def startDecEffect (s : State) : State := openSession .dec s

/-- ABORT's effect: `STATE <- IDLE`, and nothing else (R185). -/
def abortEffect (s : State) : State := { s with session := .idle }

/-- START_ENC is legal in IDLE (R183). -/
def startEncCheck (s : State) : Option ErrCode := requireSession .idle s

/-- START_DEC is legal in IDLE (R184). -/
def startDecCheck (s : State) : Option ErrCode := requireSession .idle s

/-- ABORT is legal in every STATE (R185). -/
def abortCheck (_ : State) : Option ErrCode := none

/-- NOP: no effect in every state, even while BUSY. It is not accepted and never completes (R182). -/
def execNop (s : State) : Host.Outcome State Fault Refusal := .next s.endStep

/-- START_ENC (R183). -/
def execStartEnc (s : State) : Host.Outcome State Fault Refusal :=
  runCommand .startEnc startEncCheck startEncEffect s

/-- START_DEC (R184). -/
def execStartDec (s : State) : Host.Outcome State Fault Refusal :=
  runCommand .startDec startDecCheck startDecEffect s

/-- ABORT (R185). -/
def execAbort (s : State) : Host.Outcome State Fault Refusal :=
  runCommand .abort abortCheck abortEffect s

end Sys2Proof.Machine
end

