-- ==== Sys2Proof/Machine/Transform.lean ====
section
/-! DEFINITION. Alphabet mapping, substitution, positional permutation, block transform, and the two commands that
expose it: RAW_ENC and RAW_DEC (spec 40_transform.md R100 to R116). A key is any natural number here (R190); the
commands pass KEY. -/

namespace Sys2Proof.Machine

/-- `index_of(A, b)`: the position of b in A, or none for NOTFOUND (R101). -/
def indexOf (A : List Byte) (b : Byte) : Option Nat := A.idxOf? b

/-- `byte_at(A, i)`, for i < N (R102). The engine calls it with an index in range only
(`Laws.rotate_index_in_range`, `Laws.unrotate_index_in_range`), so the default is never read. -/
def byteAt (A : List Byte) (i : Nat) : Byte := A.getD i 0

/-- The index that rotate moves index i to (R104). -/
def rotateIndex (N i k : Nat) : Nat := (i + k % N) % N

/-- The index that unrotate moves index i to: the key reduced first, then one conditional add (R105, conflict C1). -/
def unrotateIndex (N i k : Nat) : Nat :=
  let r := k % N
  let j : Int := (i : Int) - (r : Int)
  (if j < 0 then j + (N : Int) else j).toNat

/-- `rotate(A, b, k)`, with pass-through of a byte outside A (R104, R202). -/
def rotate (A : List Byte) (b : Byte) (k : Nat) : Byte :=
  match indexOf A b with
  | none => b
  | some i => byteAt A (rotateIndex A.length i k)

/-- `unrotate(A, b, k)`, with the same pass-through (R105, R202). -/
def unrotate (A : List Byte) (b : Byte) (k : Nat) : Byte :=
  match indexOf A b with
  | none => b
  | some i => byteAt A (unrotateIndex A.length i k)

/-- `shift(B, k)`: cyclic rotation left by k mod 16 positions (R108). -/
def shift (b : Block) (k : Nat) : Block :=
  Vector.ofFn fun j : Fin 16 => b[(j.val + k % 16) % 16]'(Nat.mod_lt _ (by decide))

/-- `unshift(B, k)`: cyclic rotation right by k mod 16 positions (R109). -/
def unshift (b : Block) (k : Nat) : Block :=
  Vector.ofFn fun j : Fin 16 => b[(j.val + 16 - k % 16) % 16]'(Nat.mod_lt _ (by decide))

/-- `rotate_each(A, B, k)` (R111). -/
def rotateEach (A : List Byte) (b : Block) (k : Nat) : Block :=
  Vector.ofFn fun j : Fin 16 => rotate A b[j] k

/-- `unrotate_each(A, B, k)` (R111). -/
def unrotateEach (A : List Byte) (b : Block) (k : Nat) : Block :=
  Vector.ofFn fun j : Fin 16 => unrotate A b[j] k

/-- `encrypt_block(A, B, k) = shift(rotate_each(A, B, k), k)` (R111). -/
def encryptBlock (A : List Byte) (b : Block) (k : Nat) : Block := shift (rotateEach A b k) k

/-- `decrypt_block(A, B, k) = unrotate_each(A, unshift(B, k), k)`, in that order (R112). -/
def decryptBlock (A : List Byte) (b : Block) (k : Nat) : Block := unrotateEach A (unshift b k) k

/-- RAW_ENC's effect: `DOUT <- encrypt_block(A, blk(DIN), KEY)` (R113). -/
def rawEncEffect (A : List Byte) (s : State) : State :=
  { s with dout := pack (encryptBlock A (blk s.din) s.keyNat) }

/-- RAW_DEC's effect: `DOUT <- decrypt_block(A, blk(DIN), KEY)` (R114). -/
def rawDecEffect (A : List Byte) (s : State) : State :=
  { s with dout := pack (decryptBlock A (blk s.din) s.keyNat) }

/-- RAW_ENC is legal in every STATE (R113). -/
def rawEncCheck (_ : State) : Option ErrCode := none

/-- RAW_DEC is legal in every STATE (R114). -/
def rawDecCheck (_ : State) : Option ErrCode := none

/-- RAW_ENC (R113). -/
def execRawEnc (s : State) : Host.Outcome State Fault Refusal :=
  runCommand .rawEnc rawEncCheck (rawEncEffect s.alphabet) s

/-- RAW_DEC (R114). -/
def execRawDec (s : State) : Host.Outcome State Fault Refusal :=
  runCommand .rawDec rawDecCheck (rawDecEffect s.alphabet) s

end Sys2Proof.Machine
end

