-- ==== Sys2Proof/Machine/Chaining.lean ====
section
/-! DEFINITION. The chaining state machine: merge, and the commands ENC_BLOCK, DEC_BLOCK and LOAD_CHAIN
(spec 41_chaining.md R130 to R134). -/

namespace Sys2Proof.Machine

/-- `merge(a, b)`: byte-wise XOR (R130). -/
def merge (a b : Block) : Block := Vector.ofFn fun j : Fin 16 => a[j] ^^^ b[j]

/-- Head capture: HEAD[m + j] <- P[j] for every j in 0..15 with m + j ≤ 16 (R36, R132). -/
def captureHead (m : Nat) (p : Block) (head : Vector Byte 17) : Vector Byte 17 :=
  Vector.ofFn fun q : Fin 17 =>
    if h : m ≤ q.val ∧ q.val < m + 16 then p[q.val - m]'(by omega) else head[q]

/-- MSGLEN + 16 (R33, R132). It does not wrap: E_LEN rejects a command that would pass 0xFFFFFFF0 (R116). -/
def State.nextLen (s : State) : Word := s.msgLen + 16

/-- The ciphertext of plaintext block P: `encrypt_block(A, merge(blk(CHAIN), P), KEY)` (R131, R132, R162). -/
def State.chainEncrypt (s : State) (A : List Byte) (p : Block) : Block :=
  encryptBlock A (merge (blk s.chain) p) s.keyNat

/-- The plaintext of the ciphertext block in DIN: `merge(blk(CHAIN), decrypt_block(A, Cin, KEY))` (R131, R133, R163). -/
def State.chainDecrypt (s : State) (A : List Byte) : Block :=
  merge (blk s.chain) (decryptBlock A (blk s.din) s.keyNat)

/-- ENC_BLOCK's effect (R132). -/
def encBlockEffect (A : List Byte) (s : State) : State :=
  let c := s.chainEncrypt A (blk s.din)
  { s with
    head := captureHead s.len (blk s.din) s.head
    dout := pack c
    chain := pack c
    msgLen := s.nextLen }

/-- DEC_BLOCK's effect: CHAIN takes the ciphertext just consumed, never the plaintext (R133). -/
def decBlockEffect (A : List Byte) (s : State) : State :=
  { s with
    dout := pack (s.chainDecrypt A)
    chain := s.din
    msgLen := s.nextLen }

/-- LOAD_CHAIN's effect: `CHAIN <- blk(IV)` (R134). -/
def loadChainEffect (s : State) : State := { s with chain := s.iv }

/-- ENC_BLOCK is legal in ENC, with room for another block (R85, R132). -/
def encBlockCheck (s : State) : Option ErrCode := firstFailure (requireSession .enc s) (requireRoom s)

/-- DEC_BLOCK is legal in DEC, with room for another block (R85, R133). -/
def decBlockCheck (s : State) : Option ErrCode := firstFailure (requireSession .dec s) (requireRoom s)

/-- LOAD_CHAIN is legal in every STATE (R134). -/
def loadChainCheck (_ : State) : Option ErrCode := none

/-- ENC_BLOCK (R132). -/
def execEncBlock (s : State) : Host.Outcome State Fault Refusal :=
  runCommand .encBlock encBlockCheck (encBlockEffect s.alphabet) s

/-- DEC_BLOCK (R133). -/
def execDecBlock (s : State) : Host.Outcome State Fault Refusal :=
  runCommand .decBlock decBlockCheck (decBlockEffect s.alphabet) s

/-- LOAD_CHAIN (R134). -/
def execLoadChain (s : State) : Host.Outcome State Fault Refusal :=
  runCommand .loadChain loadChainCheck loadChainEffect s

end Sys2Proof.Machine
end

