-- ==== Sys2Proof/Machine/Padding.lean ====
section
/-! DEFINITION. The padding controller: the pad count and the pad byte of both variants, the unpad report, and the
commands ENC_FINAL and DEC_FINAL (spec 42_padding.md R150 to R163). CTRL.ALPHA_SEL selects the variant (R150). -/

namespace Sys2Proof.Machine

/-- The pad count `pc = 16 - n`, in 1 to 16 (R151). -/
def padCount (n : BitVec 4) : Nat := 16 - n.toNat

/-- Variant (b)'s offset into the text, `o = pc mod N_P` (R153). -/
def padOffset (np : Nat) (n : BitVec 4) : Nat := padCount n % np

/-- Variant (a)'s pad byte, `pb = pc mod 256` (R152). -/
def padByteFull (n : BitVec 4) : Byte := BitVec.ofNat 8 (padCount n % 256)

/-- Variant (b)'s pad byte, `text[o]`: from HEAD if ENC_BLOCK consumed that position, else from the final block in DIN
(R153, R162). No byte stands at an offset of 16 or more in DIN: E_PAD_RANGE rejects that case (R154, log 11). -/
def padByteText (o : Nat) (s : State) : Byte :=
  if o < s.len then s.head[o]?.getD (Config.noSuchByte o)
  else (blk s.din)[o - s.len]?.getD (Config.noSuchByte o)

/-- The pad byte of ENC_FINAL n under the active alphabet A (R150, R152, R153). -/
def padByteOf (A : List Byte) (n : BitVec 4) (s : State) : Byte :=
  if s.alphaSel then padByteText (padOffset A.length n) s else padByteFull n

/-- The padded final block: `blk(DIN)[0 : n] ++ [pb]*pc` (R162). -/
def paddedBlock (n : BitVec 4) (pb : Byte) (din : Block) : Block :=
  Vector.ofFn fun i : Fin 16 => if i.val < n.toNat then din[i] else pb

/-- ENC_FINAL's effect (R162). -/
def encFinalEffect (A : List Byte) (n : BitVec 4) (s : State) : State :=
  let pb := padByteOf A n s
  let c := s.chainEncrypt A (paddedBlock n pb (blk s.din))
  { s with
    dout := pack c
    chain := pack c
    msgLen := s.nextLen
    outLen := s.nextLen
    padInfo := { padCnt := BitVec.ofNat 8 (padCount n), padByte := pb, unpadSkipped := false }
    session := .idle }

/-- The unpadded length that DEC_FINAL reports: `T - pc`, or 0 where the count exceeds the text (R160). The count is not
checked against PKCS#7, only against T (R156, R159). -/
def unpadLen (T : Word) (last : Byte) : Word := if last.toNat ≤ T.toNat then T - last.setWidth 32 else 0

/-- The unpad report of DEC_FINAL under the full alphabet: T is the total length, `last` the final plaintext byte, read as
the pad count; a count greater than T records E_BAD_PAD (R156, R160). -/
def reportUnpad (T : Word) (last : Byte) (s : State) : State :=
  { s with
    padInfo := { padCnt := last, padByte := last, unpadSkipped := false }
    outLen := unpadLen T last
    err := if last.toNat ≤ T.toNat then s.err else firstError s.err .badPad }

/-- DEC_FINAL under the printable alphabet does no unpad (R157, R161). -/
def skipUnpad (T : Word) (s : State) : State :=
  { s with padInfo := { padCnt := 0, padByte := 0, unpadSkipped := true }, outLen := T }

/-- DEC_FINAL's effect (R163). -/
def decFinalEffect (A : List Byte) (s : State) : State :=
  let p := s.chainDecrypt A
  let t := { s with dout := pack p, chain := s.din, msgLen := s.nextLen, session := .idle }
  if s.alphaSel then skipUnpad s.nextLen t else reportUnpad s.nextLen p[15] t

/-- Variant (b) needs the byte text[o]: o < MSGLEN + n, otherwise E_PAD_RANGE (R85, R154). -/
def requirePadByte (np : Nat) (n : BitVec 4) (s : State) : Option ErrCode :=
  if s.alphaSel = true ∧ s.len + n.toNat ≤ padOffset np n then some .padRange else none

/-- ENC_FINAL is legal in ENC, with room for another block and a byte to pad with (R85, R162). -/
def encFinalCheck (A : List Byte) (n : BitVec 4) (s : State) : Option ErrCode :=
  firstFailure (requireSession .enc s) (firstFailure (requireRoom s) (requirePadByte A.length n s))

/-- DEC_FINAL is legal in DEC, with room for another block (R85, R163). -/
def decFinalCheck (s : State) : Option ErrCode := firstFailure (requireSession .dec s) (requireRoom s)

/-- ENC_FINAL (R162). -/
def execEncFinal (n : BitVec 4) (s : State) : Host.Outcome State Fault Refusal :=
  runCommand (.encFinal n) (encFinalCheck s.alphabet n) (encFinalEffect s.alphabet n) s

/-- DEC_FINAL (R163). -/
def execDecFinal (s : State) : Host.Outcome State Fault Refusal :=
  runCommand .decFinal decFinalCheck (decFinalEffect s.alphabet) s

end Sys2Proof.Machine
end

