-- ==== Sys2Proof/Machine/Dispatch.lean ====
section
/-! DEFINITION. The step of each command (spec 30_encoding.md R82): one arm per command, one meaning per arm. -/

namespace Sys2Proof.Machine

def exec (i : Instr) (s : State) : Host.Outcome State Fault Refusal :=
  match i with
  | .nop => Sys2Proof.Machine.execNop s
  | .startEnc => Sys2Proof.Machine.execStartEnc s
  | .startDec => Sys2Proof.Machine.execStartDec s
  | .encBlock => Sys2Proof.Machine.execEncBlock s
  | .encFinal n => Sys2Proof.Machine.execEncFinal n s
  | .decBlock => Sys2Proof.Machine.execDecBlock s
  | .decFinal => Sys2Proof.Machine.execDecFinal s
  | .rawEnc => Sys2Proof.Machine.execRawEnc s
  | .rawDec => Sys2Proof.Machine.execRawDec s
  | .loadChain => Sys2Proof.Machine.execLoadChain s
  | .abort => Sys2Proof.Machine.execAbort s

end Sys2Proof.Machine
end

