-- ==== Sys2Proof/Machine/Bus.lean ====
section
/-! DEFINITION. The register map and the host's reads and writes of it, but for the command in a CMD write
(spec 20_memory.md R60 to R68, 10_state.md R20 to R35). -/

namespace Sys2Proof.Machine

/-- The register that an offset reaches: `o = off[7:2] << 2`, offset bits [1:0] are ignored (R20, R61, R65). -/
def regAt (off : BitVec 8) : Reg :=
  match off.toNat / 4 * 4 with
  | 0x00 => .cap
  | 0x04 => .ctrl
  | 0x08 => .status
  | 0x0C => .irqen
  | 0x10 => .cmd
  | 0x14 => .key
  | 0x18 => .msglen
  | 0x1C => .outlen
  | 0x20 => .padinfo
  | 0x30 => .iv 0
  | 0x34 => .iv 1
  | 0x38 => .iv 2
  | 0x3C => .iv 3
  | 0x40 => .din 0
  | 0x44 => .din 1
  | 0x48 => .din 2
  | 0x4C => .din 3
  | 0x50 => .dout 0
  | 0x54 => .dout 1
  | 0x58 => .dout 2
  | 0x5C => .dout 3
  | 0x60 => .chain 0
  | 0x64 => .chain 1
  | 0x68 => .chain 2
  | 0x6C => .chain 3
  | _ => .reserved

/-- The offset of a register (R20); for `reserved`, the first reserved offset. -/
def offsetOf : Reg → BitVec 8
  | .cap => 0x00
  | .ctrl => 0x04
  | .status => 0x08
  | .irqen => 0x0C
  | .cmd => 0x10
  | .key => 0x14
  | .msglen => 0x18
  | .outlen => 0x1C
  | .padinfo => 0x20
  | .reserved => 0x24
  | .iv i => BitVec.ofNat 8 (0x30 + 4 * i.val)
  | .din i => BitVec.ofNat 8 (0x40 + 4 * i.val)
  | .dout i => BitVec.ofNat 8 (0x50 + 4 * i.val)
  | .chain i => BitVec.ofNat 8 (0x60 + 4 * i.val)

/-- The result registers, whose reads are `any` while BUSY (R64). -/
def Reg.isResult : Reg → Bool
  | .dout _ | .chain _ | .msglen | .outlen | .padinfo => true
  | .cap | .ctrl | .status | .irqen | .cmd | .key | .iv _ | .din _ | .reserved => false

/-- The value of a register as a read returns it while BUSY = 0 (R22 to R35, R61); CMD and reserved offsets read 0
(R29, R66). -/
def State.readReg (s : State) : Reg → Word
  | .cap => capWord Config.printAlpha.length
  | .ctrl => s.ctrlWord
  | .status => s.statusWord
  | .irqen => s.irqenWord
  | .cmd => 0
  | .key => s.key
  | .msglen => s.msgLen
  | .outlen => s.outLen
  | .padinfo => s.padInfo.word
  | .iv i => s.iv[i]
  | .din i => s.din[i]
  | .dout i => s.dout[i]
  | .chain i => s.chain[i]
  | .reserved => 0

/-- A write that only BUSY = 1 drops, with E_BUSY: IVi and DINi (R25, R30). -/
def writeUnlessBusy (store : State → State) (s : State) : State :=
  if s.busy then recordError .busy s else store s

/-- A write that BUSY = 1 drops with E_BUSY, and an open session with E_LOCKED: CTRL and KEY (R22, R24, R204). -/
def writeUnlessLocked (store : State → State) (s : State) : State :=
  if s.busy then recordError .busy s
  else if s.session = .idle then store s
  else recordError .locked s

/-- A write of w to a register other than CMD (R61). Read-only and reserved locations ignore it and record no error
(R66); a CMD write is a command, or an illegal word (`fetchAccess`). -/
def writeReg (r : Reg) (w : Word) (s : State) : State :=
  match r with
  | .ctrl => writeUnlessLocked (fun s => { s with alphaSel := w.getLsbD 0 }) s
  | .status => writeStatus w s
  | .irqen => { s with ieDone := w.getLsbD 0, ieErr := w.getLsbD 1 }
  | .key => writeUnlessLocked (fun s => { s with key := w }) s
  | .iv i => writeUnlessBusy (fun s => { s with iv := s.iv.set i w }) s
  | .din i => writeUnlessBusy (fun s => { s with din := s.din.set i w }) s
  | .cap | .cmd | .msglen | .outlen | .padinfo | .dout _ | .chain _ | .reserved => s

/-- rdata returns v for a read of offset `off`. Log 7. -/
def State.answerRead (off : BitVec 8) (v : Word) (s : State) : State :=
  { s with reads := s.reads ++ [{ off := off, value := v }] }

/-- `BusRead(off)` (R61): 0 while the engine is held in reset (R230); `any` for a result register while BUSY (R64, log
6); else the register. No read has a side effect on the engine. -/
def busRead (off : BitVec 8) (s : State) : State :=
  if !s.rstN then s.answerRead off 0
  else if (regAt off).isResult && s.busy then
    { s.answerRead off (Config.anyWord s.draws) with draws := s.draws + 1 }
  else s.answerRead off (s.readReg (regAt off))

end Sys2Proof.Machine
end

