-- ==== Sys2Proof/Machine/Fetch.lean ====
section
/-! DEFINITION. What the next event asks for: a step of a command, or an answer that needs no command
(spec 00_scope.md R16, 20_memory.md R61, R70). -/

namespace Sys2Proof.Machine

/-- What the next event comes to: a step of command i, for `exec` to take, or the outcome itself. -/
inductive Fetched where
  | command (i : Instr)
  | answer (o : Host.Outcome State Fault Refusal)
deriving Repr

/-- The engine's turn: it completes the command in flight, if there is one; if not, nothing is enabled and the turn
passes (R87, R217, log 1). -/
def engineTurn (s : State) : Fetched :=
  if s.rstN then
    match s.pend with
    | some i => .command i
    | none => .answer (.next s.endStep)
  else .answer (.next s.endStep)

/-- A bus write: none while the engine is held in reset (R230); to CMD, a command or an illegal word (R29, R85); else
a register write. -/
def fetchWrite (off : BitVec 8) (w : Word) (s : State) : Fetched :=
  if s.rstN then
    if regAt off = .cmd then
      match decode w with
      | .ok i => .command i
      | .error _ => .answer (.next (issueIllegal s).endStep)
    else .answer (.next (writeReg (regAt off) w s).endStep)
  else .answer (.next s.endStep)

/-- One bus access: only whole 32-bit accesses are admitted (R65). -/
def fetchAccess (a : Access) (s : State) : Fetched :=
  if a.width = .word then
    match a.op with
    | .read => .answer (.next (busRead a.off s).endStep)
    | .write w => fetchWrite a.off w s
  else .answer (.refused .narrowAccess)

/-- What the event at the head of the inputs comes to; with no event left, it is the engine's turn (R16, R71). -/
def fetch (s : State) : Fetched :=
  match s.inputs with
  | [] => engineTurn s
  | .engine :: _ => engineTurn s
  | .bus a :: _ => fetchAccess a s
  | .busAt addr width op :: _ =>
    match Config.windowOffset addr with
    | some off => fetchAccess { width := width, off := off, op := op } s
    | none => .answer (.next s.endStep)
  | .reset :: _ => .answer (.next (resetPulse s))
  | .rstLow :: _ => .answer (.next (assertReset s))
  | .rstHigh :: _ => .answer (.next (releaseReset s))

/-- The host's write of command word w to CMD. -/
def cmdWrite (w : Word) : Event := .bus { width := .word, off := offsetOf .cmd, op := .write w }

end Sys2Proof.Machine
end

