-- ==== Sys2Proof/Machine/Step.lean ====
section
/-! DEFINITION. One step of the machine: one access of the host, one reset event, or the engine's completion
(spec 00_scope.md R16, 20_memory.md R70). -/

namespace Sys2Proof.Machine

/-- One step: the event at the head of the inputs (log 1). -/
def step (s : State) : Host.Outcome State Fault Refusal :=
  match fetch s with
  | .command i => exec i s
  | .answer o => o

/-- s with the host's next bus access a write to CMD of the word whose low `nbits` bits are w, and the engine out of
reset: the next step issues exactly that command (log 2). -/
def State.withFetchWord (s : State) (nbits w : Nat) : State :=
  { s with inputs := cmdWrite (BitVec.ofNat 32 (w % 2 ^ nbits)) :: s.inputs, rstN := true }

end Sys2Proof.Machine
end

