-- ==== Sys2Proof/Machine/Source.lean ====
section
/-! DEFINITION. The source's functions over whole messages, which a session of commands computes block by block:
splitting, padding and its inverse, the CBC recurrences, encrypt and decrypt (spec 20_memory.md R63, 41_chaining.md
R131, 42_padding.md R151 to R157, 43_pipeline.md R186, R187). Statements compare the engine with them. -/

namespace Sys2Proof.Machine

/-- Block j of a text: its bytes 16j to 16j+15 (R63). Statements use it where the text has those bytes. -/
def blockAt (t : List Byte) (j : Nat) : Block := Vector.ofFn fun i : Fin 16 => t.getD (16 * j + i.val) 0

/-- The whole blocks of a text, in text order (R63). -/
def blocksOf (t : List Byte) : List Block := (List.range (t.length / 16)).map (blockAt t)

/-- Blocks concatenated in order (R63). -/
def bytesOf (bs : List Block) : List Byte := bs.flatMap Vector.toList

/-- The text-level pad (R151 to R155). Variant (b) has none when no byte stands at its offset (R154). -/
def padText (variantB : Bool) (A : List Byte) (t : List Byte) : Option (List Byte) :=
  let pc := 16 - t.length % 16
  if variantB then (t[pc % A.length]?).map fun pb => t ++ List.replicate pc pb
  else some (t ++ List.replicate pc (BitVec.ofNat 8 (pc % 256)))

/-- The text-level unpad of variant (a): the last byte is the count, unchecked; none where the count exceeds the text
(R156, E_BAD_PAD of R160). -/
def unpadText (t : List Byte) : Option (List Byte) :=
  match t.getLast? with
  | none => none
  | some last => if last.toNat ≤ t.length then some (t.take (t.length - last.toNat)) else none

/-- CBC encryption of blocks, from the chaining block `prev` (R131). -/
def cbcEncrypt (A : List Byte) (k : Nat) (prev : Block) : List Block → List Block
  | [] => []
  | p :: ps =>
    let c := encryptBlock A (merge prev p) k
    c :: cbcEncrypt A k c ps

/-- CBC decryption of blocks, from the chaining block `prev`: the chaining input is always the ciphertext (R131). -/
def cbcDecrypt (A : List Byte) (k : Nat) (prev : Block) : List Block → List Block
  | [] => []
  | c :: cs => merge prev (decryptBlock A c k) :: cbcDecrypt A k c cs

/-- The source's encrypt: pad, split, chain forward, concatenate (R186). -/
def encryptText (variantB : Bool) (A : List Byte) (k : Nat) (iv : Block) (p : List Byte) : Option (List Byte) :=
  (padText variantB A p).map fun t => bytesOf (cbcEncrypt A k iv (blocksOf t))

/-- The source's decrypt before its unpad: split, chain backward, concatenate (R187). -/
def decryptPadded (A : List Byte) (k : Nat) (iv : Block) (c : List Byte) : List Byte :=
  bytesOf (cbcDecrypt A k iv (blocksOf c))

/-- What the host must check of a ciphertext before START_DEC: whole blocks, at least one (R187, R201). -/
def hostMayDecrypt (c : List Byte) : Bool := decide (c.length % 16 = 0) && decide (0 < c.length)

/-- The source's decrypt under the full alphabet (R187). -/
def decryptText (A : List Byte) (k : Nat) (iv : Block) (c : List Byte) : Option (List Byte) :=
  if hostMayDecrypt c then unpadText (decryptPadded A k iv c) else none

end Sys2Proof.Machine
end

