-- ==== Sys2Proof/Machine/Asm.lean ====
section
/-! DEFINITION. Host programs: the statements of spec 30_encoding.md R89, what each expands to as events, and the two
command sequences of 43_pipeline.md R186 and R187. -/

namespace Sys2Proof.Machine

/-- A block register group by its name (R89). -/
inductive Group where
  | iv
  | din
  | dout
  | chain
deriving DecidableEq, Repr

/-- Register i of a group. -/
def Group.reg : Group → Fin 4 → Reg
  | .iv => .iv
  | .din => .din
  | .dout => .dout
  | .chain => .chain

/-- A statement of a host program (R89). -/
inductive Stmt where
  /-- `wr REG, imm32`. -/
  | wr (r : Reg) (w : Word)
  /-- `rd REG`. -/
  | rd (r : Reg)
  /-- `cmd OPNAME [, n]`. -/
  | cmd (i : Instr)
  /-- `wait`, in a run where `polls` reads of STATUS come before the engine's completion. Log 15. -/
  | wait (polls : Nat)
  /-- `wrblk G, b0 .. b15`. -/
  | wrblk (g : Group) (b : Block)
  /-- `rdblk G`. -/
  | rdblk (g : Group)
  /-- `ackdone`: `wr STATUS, 0x00000008`. -/
  | ackdone
  /-- `clrerr`: `wr STATUS, 0x00000100`. -/
  | clrerr
deriving DecidableEq, Repr

/-- `BusWrite(off, w)` as an event. -/
def busWriteEvent (off : BitVec 8) (w : Word) : Event := .bus { width := .word, off := off, op := .write w }

/-- `BusRead(off)` as an event. -/
def busReadEvent (off : BitVec 8) : Event := .bus { width := .word, off := off, op := .read }

/-- The bus transactions of a statement, one event each (R89, R90); `wait` also holds the engine's turn. -/
def Stmt.expand : Stmt → List Event
  | .wr r w => [busWriteEvent (offsetOf r) w]
  | .rd r => [busReadEvent (offsetOf r)]
  | .cmd i => [busWriteEvent (offsetOf .cmd) (encode i)]
  | .wait polls =>
    List.replicate polls (busReadEvent (offsetOf .status)) ++ [.engine, busReadEvent (offsetOf .status)]
  | .wrblk g b => (List.finRange 4).map fun j => busWriteEvent (offsetOf (g.reg j)) (pack b)[j]
  | .rdblk g => (List.finRange 4).map fun j => busReadEvent (offsetOf (g.reg j))
  | .ackdone => [busWriteEvent (offsetOf .status) 0x00000008]
  | .clrerr => [busWriteEvent (offsetOf .status) 0x00000100]

/-- The events of a host program. -/
def expandAll (p : List Stmt) : List Event := p.flatMap Stmt.expand

/-- The final block of R186: what is left of the text, then bytes of any value. -/
def finalBlock (t : List Byte) (fill : Block) : Block :=
  Vector.ofFn fun i : Fin 16 => t.getD (16 * (t.length / 16) + i.val) fill[i]

/-- The statements that set up a session: alphabet, key and IV (R186, R187, R234). -/
def setupStmts (a : Bool) (k : Word) (iv : Block) : List Stmt :=
  [.wr .ctrl (bit a), .wr .key k, .wrblk .iv iv]

/-- One block through the engine: write DIN, issue the command, wait, read DOUT (R186, R187). -/
def blockStmts (polls : Nat) (b : Block) (i : Instr) : List Stmt :=
  [.wrblk .din b, .cmd i, .wait polls, .rdblk .dout]

/-- The encrypt pipeline of R186, for plaintext p. Its j-th wait polls `polls j` times (log 15). -/
def encryptProgram (a : Bool) (k : Word) (iv : Block) (polls : Nat → Nat) (fill : Block) (p : List Byte) : List Stmt :=
  setupStmts a k iv ++ [.cmd .startEnc, .wait (polls 0)]
    ++ (List.range (p.length / 16)).flatMap (fun j => blockStmts (polls (j + 1)) (blockAt p j) .encBlock)
    ++ blockStmts (polls (p.length / 16 + 1)) (finalBlock p fill) (.encFinal (BitVec.ofNat 4 (p.length % 16)))

/-- The decrypt pipeline of R187, for ciphertext c of M ≥ 1 blocks. Its j-th wait polls `polls j` times (log 15). -/
def decryptProgram (a : Bool) (k : Word) (iv : Block) (polls : Nat → Nat) (c : List Byte) : List Stmt :=
  setupStmts a k iv ++ [.cmd .startDec, .wait (polls 0)]
    ++ (List.range (c.length / 16 - 1)).flatMap (fun j => blockStmts (polls (j + 1)) (blockAt c j) .decBlock)
    ++ blockStmts (polls (c.length / 16)) (blockAt c (c.length / 16 - 1)) .decFinal ++ [.rd .outlen]

/-- The four bytes of a word, lowest first (R62). -/
def wordBytes (w : Word) : List Byte :=
  [w.extractLsb' 0 8, w.extractLsb' 8 8, w.extractLsb' 16 8, w.extractLsb' 24 8]

/-- The bytes the host reads from DOUT, in the order it reads them (R63). -/
def doutBytes (rs : List ReadValue) : List Byte :=
  rs.flatMap fun r =>
    match regAt r.off with
    | .dout _ => wordBytes r.value
    | _ => []

end Sys2Proof.Machine
end

