-- ==== Sys2Proof/Safety.lean ====
section
/-! DEFINITION. What a legal state is, and the terms the statements use (spec 10_state.md R42, 20_memory.md R74,
43_pipeline.md R181). -/

namespace Sys2Proof.Machine

/-- The first of command i's own checks that fails in s (R85), E_BUSY apart. -/
def legality (i : Instr) (s : State) : Option ErrCode :=
  match i with
  | .nop => none
  | .startEnc => startEncCheck s
  | .startDec => startDecCheck s
  | .encBlock => encBlockCheck s
  | .encFinal n => encFinalCheck s.alphabet n s
  | .decBlock => decBlockCheck s
  | .decFinal => decFinalCheck s
  | .rawEnc => rawEncCheck s
  | .rawDec => rawDecCheck s
  | .loadChain => loadChainCheck s
  | .abort => abortCheck s

/-- Every piece of the engine's state is the same; only the model's own fields may differ. -/
def SameEngine (s t : State) : Prop :=
  t = { s with inputs := t.inputs, reads := t.reads, draws := t.draws }

/-- The operands of a command are the same (the list of R74). -/
structure SameOperands (s t : State) : Prop where
  alphaSel : t.alphaSel = s.alphaSel
  key : t.key = s.key
  iv : t.iv = s.iv
  din : t.din = s.din
  chain : t.chain = s.chain
  msgLen : t.msgLen = s.msgLen
  head : t.head = s.head

/-- The legal states: every step keeps this, and reset has it. R42 states the first two clauses and, by the types of
STATE and ERR and the definition of BUSY, its other three; the rest are the model's own strengthening. -/
structure Inv (s : State) : Prop where
  /-- MSGLEN is a multiple of 16 (R33, R42). -/
  aligned : s.msgLen.toNat % 16 = 0
  /-- MSGLEN never exceeds 0xFFFFFFF0 (R33, R42). -/
  bounded : s.msgLen.toNat ≤ 0xFFFFFFF0
  /-- The command in flight is none that is never accepted (R182), and what made it legal at issue still holds (R74). -/
  pending : ∀ i, s.pend = some i → i ≠ .nop ∧ legality i s = none
  /-- The unpadded length never exceeds the length of the session (R34). -/
  outLen_le : s.outLen.toNat ≤ s.msgLen.toNat
  /-- HEAD is 0 at every position the session has not consumed (R36). -/
  head_clear : ∀ p : Fin 17, s.msgLen.toNat ≤ p.val → s.head[p] = 0
  /-- PADINFO reports no pad where no unpad was made (R35, R161). -/
  skipped : s.padInfo.unpadSkipped = true → s.padInfo.padCnt = 0 ∧ s.padInfo.padByte = 0
  /-- While rst_n is low, every piece of state holds its reset value (R230). -/
  held : s.rstN = false → SameEngine { State.reset with rstN := false } s

/-- An event the model admits: every bus access is a whole 32-bit access (R65). -/
def Event.admitted : Event → Bool
  | .bus a => decide (a.width = .word)
  | .busAt _ width _ => decide (width = .word)
  | .engine | .reset | .rstLow | .rstHigh => true

/-- The engine's completion step is due in s: its turn, and a command in flight (R87). -/
def State.completes (s : State) : Prop := s.rstN = true ∧ s.engineMoves = true ∧ s.busy = true

/-- The step of s is a reset event, which takes every register to its reset value (R230). -/
def State.resets (s : State) : Prop := s.inputs.head? = some .reset ∨ s.inputs.head? = some .rstLow

/-- One row of the transition table: the command that completes, from and to (R181). -/
def Transition (i : Instr) (q q' : Session) : Prop :=
  (i = .startEnc ∧ q = .idle ∧ q' = .enc) ∨ (i = .startDec ∧ q = .idle ∧ q' = .dec) ∨
  (i = .encBlock ∧ q = .enc ∧ q' = .enc) ∨ (∃ n, i = .encFinal n ∧ q = .enc ∧ q' = .idle) ∨
  (i = .decBlock ∧ q = .dec ∧ q' = .dec) ∨ (i = .decFinal ∧ q = .dec ∧ q' = .idle) ∨
  (i = .abort ∧ q' = .idle) ∨ ((i = .rawEnc ∨ i = .rawDec ∨ i = .loadChain) ∧ q' = q)

end Sys2Proof.Machine
end

