-- ==== Sys2Proof/Certificates/Slice0/Obligations.lean ====
section
/-! DEFINITION. What is stated of the engine, for the provers: one definition per statement, its docstring naming the
rules of spec/ it rests on. The next state of a command's own step is written out field by field; a field that a
statement does not name keeps its value. -/

open Sys2Proof Sys2Proof.Machine

/-! ### Command words -/

/-- R80, R82, R89: decoding the word of a well-formed command gives the command back, with every NBYTES, and every word
the assembler writes decodes to a command whose word it is. -/
def Obligations.DecodeEncodeAgree : Prop :=
  (∀ i : Instr, i.wellFormed = true → commandWordOk (encode i) = true ∧ decode (encode i) = .ok i) ∧
  (∀ w : Word, commandWordOk w = true → ∃ i, decode w = .ok i ∧ encode i = w)

/-- R88: the decoder reads OP, then NBYTES if OP = 4, and nothing else: two words that agree there decode alike. -/
def Obligations.DecoderReadsOnlyOpAndNbytes : Prop :=
  ∀ v w : Word, v.extractLsb' 0 4 = w.extractLsb' 0 4 →
    (v.extractLsb' 0 4 = 4#4 → v.extractLsb' 4 4 = w.extractLsb' 4 4) → decode v = decode w

/-- R82, R84: the words with OP 0 to 10, and only those, decode, to the command with that opcode and, for ENC_FINAL, that
NBYTES; a word with OP 11 to 15 is rejected by its opcode. -/
def Obligations.OpcodeDecidesTheCommand : Prop :=
  ∀ w : Word,
    ((opField w).toNat ≤ 10 →
      ∃ i, decode w = .ok i ∧ opcode i = opField w ∧ ∀ n, i = .encFinal n → n = nbytesField w) ∧
    (11 ≤ (opField w).toNat → decode w = .error (.illegalOp (opField w)))

/-- R80 to R84: words written out from the encoding, `w = 0xFFFFFF03` of R83 among them. -/
def Obligations.WordsOfTheOpcodeTable : Prop :=
  decode 0x00000001 = .ok .startEnc ∧ decode 0x00000003 = .ok .encBlock ∧ decode 0xFFFFFF03 = .ok .encBlock ∧
  decode 0x000000D4 = .ok (.encFinal 13) ∧ decode 0x00000006 = .ok .decFinal ∧ decode 0xFFFFFF07 = .ok .rawEnc ∧
  decode 0x0000000A = .ok .abort ∧ decode 0x0000000B = .error (.illegalOp 11)

/-- R16, R85, R87: out of reset, a step runs `exec` of the command that the CMD write's word decodes to, and nothing around
it; in the engine's turn it runs `exec` of the command in flight. (The schedule in `inputs` is the model's choice, log 1.) -/
def Obligations.StepRunsTheDecodedCommand : Prop :=
  (∀ (s : State) (off : BitVec 8) (w : Word) (rest : List Event) (i : Instr), s.rstN = true →
    s.inputs = .bus { width := .word, off := off, op := .write w } :: rest → regAt off = .cmd →
    decode w = .ok i → i.wellFormed = true ∧ step s = exec i s) ∧
  (∀ (s : State) (i : Instr), s.rstN = true → s.engineMoves = true → s.pend = some i → step s = exec i s)

/-! ### Issue -/

/-- R85: what a write of w to CMD does, its checks in their order. A rejected command records its code if ERR was NONE and
changes nothing else; an accepted one changes only PEND (and with it BUSY). -/
def Obligations.CmdWriteIssuesInOrder : Prop :=
  ∀ (s : State) (w : Word) (rest : List Event), s.rstN = true → s.inputs = cmdWrite w :: rest →
    let op := (w.extractLsb' 0 4).toNat
    let n := (w.extractLsb' 4 4).toNat
    let reject (c : ErrCode) : State :=
      { s with err := if s.err = .none then c else s.err, inputs := rest }
    step s = .next (
      if op = 0 then { s with inputs := rest }
      else if s.busy then reject .busy
      else if 11 ≤ op then reject .illegal
      else if (op = 1 ∨ op = 2) ∧ s.session ≠ .idle then reject .seq
      else if (op = 3 ∨ op = 4) ∧ s.session ≠ .enc then reject .seq
      else if (op = 5 ∨ op = 6) ∧ s.session ≠ .dec then reject .seq
      else if (op = 3 ∨ op = 4 ∨ op = 5 ∨ op = 6) ∧ 0xFFFFFFF0 ≤ s.msgLen.toNat then reject .len
      else if op = 4 ∧ s.alphaSel = true ∧ s.msgLen.toNat + n ≤ (16 - n) % Config.printAlpha.length then
        reject .padRange
      else { s with pend := (decode w).toOption, inputs := rest })

/-- R206: a CMD write that is not accepted changes nothing but ERR, and ERR only if it was NONE. -/
def Obligations.RejectedCommandChangesOnlyErr : Prop :=
  ∀ (s t : State) (w : Word) (rest : List Event), s.rstN = true → s.inputs = cmdWrite w :: rest →
    step s = .next t → t.pend = s.pend →
    t = { s with err := t.err, inputs := rest } ∧ (s.err ≠ .none → t.err = s.err)

/-- R85, R87, R181: a command other than NOP that is legal in an engine that is not busy, written to CMD and followed by the
engine's turn, is accepted and completes: DONE is set, BUSY is clear, and STATE moves as the table of R181 says. -/
def Obligations.LegalCommandRunsToCompletion : Prop :=
  ∀ (s : State) (i : Instr) (rest : List Event), i ≠ .nop → s.rstN = true → s.pend = none → legality i s = none →
    s.inputs = cmdWrite (encode i) :: .engine :: rest →
    ∃ t, Sys2Proof.core.run 2 s = .next t ∧ t.pend = none ∧ t.done = true ∧ t.inputs = rest ∧
      Transition i s.session t.session

/-! ### The commands: what each step of its own effect leaves -/

/-- R182: NOP has no effect in any state, even while BUSY; it is not accepted, sets no DONE and records no error. -/
def Obligations.NopHasNoEffect : Prop :=
  (∀ w : Word, w.extractLsb' 0 4 = 0#4 → decode w = .ok .nop) ∧
  ∀ s : State, exec .nop s = .next { s with inputs := s.inputs.tail }

/-- R183, R184: the completion of START_ENC and START_DEC. -/
def Obligations.SessionOpens : Prop :=
  ∀ (s : State) (i : Instr) (q : Session), (i = .startEnc ∧ q = .enc) ∨ (i = .startDec ∧ q = .dec) →
    s.engineMoves = true → s.pend = some i →
    exec i s = .next
      { s with
        chain := s.iv
        msgLen := 0
        outLen := 0
        padInfo := { padCnt := 0, padByte := 0, unpadSkipped := false }
        head := Vector.replicate 17 0
        session := q
        pend := none
        done := true
        inputs := s.inputs.tail }

/-- R132: the completion of ENC_BLOCK. -/
def Obligations.EncBlockCompletes : Prop :=
  ∀ s : State, s.engineMoves = true → s.pend = some .encBlock →
    let c := encryptBlock s.alphabet (merge (blk s.chain) (blk s.din)) s.key.toNat
    ∃ head : Vector Byte 17,
      (∀ q : Fin 17, head[q] =
        if h : s.msgLen.toNat ≤ q.val ∧ q.val < s.msgLen.toNat + 16 then (blk s.din)[q.val - s.msgLen.toNat]
        else s.head[q]) ∧
      exec .encBlock s = .next
        { s with
          head := head
          dout := pack c
          chain := pack c
          msgLen := s.msgLen + 16
          pend := none
          done := true
          inputs := s.inputs.tail }

/-- R152, R162: the completion of ENC_FINAL under the full alphabet: pc copies of the byte pc = 16 - n. -/
def Obligations.EncFinalFullCompletes : Prop :=
  ∀ (s : State) (n : BitVec 4), s.engineMoves = true → s.pend = some (.encFinal n) → s.alphaSel = false →
    let pb := BitVec.ofNat 8 (16 - n.toNat)
    let p : Block := Vector.ofFn fun i : Fin 16 => if i.val < n.toNat then (blk s.din)[i] else pb
    let c := encryptBlock fullAlphabet (merge (blk s.chain) p) s.key.toNat
    exec (.encFinal n) s = .next
      { s with
        dout := pack c
        chain := pack c
        msgLen := s.msgLen + 16
        outLen := s.msgLen + 16
        padInfo := { padCnt := pb, padByte := pb, unpadSkipped := false }
        session := .idle
        pend := none
        done := true
        inputs := s.inputs.tail }

/-- R153, R162: the completion of ENC_FINAL under the printable alphabet: pc copies of text[o], o = pc mod N_P, which
stands in HEAD if o < MSGLEN, else in DIN, below n as R154 requires. -/
def Obligations.EncFinalTextCompletes : Prop :=
  ∀ (s : State) (n : BitVec 4) (pb : Byte), s.engineMoves = true → s.pend = some (.encFinal n) →
    s.alphaSel = true →
    let o := (16 - n.toNat) % Config.printAlpha.length
    (o < s.msgLen.toNat → s.head[o]? = some pb) →
    (s.msgLen.toNat ≤ o → o < s.msgLen.toNat + n.toNat ∧ (blk s.din)[o - s.msgLen.toNat]? = some pb) →
    let p : Block := Vector.ofFn fun i : Fin 16 => if i.val < n.toNat then (blk s.din)[i] else pb
    let c := encryptBlock Config.printAlpha (merge (blk s.chain) p) s.key.toNat
    exec (.encFinal n) s = .next
      { s with
        dout := pack c
        chain := pack c
        msgLen := s.msgLen + 16
        outLen := s.msgLen + 16
        padInfo := { padCnt := BitVec.ofNat 8 (16 - n.toNat), padByte := pb, unpadSkipped := false }
        session := .idle
        pend := none
        done := true
        inputs := s.inputs.tail }

/-- R133: the completion of DEC_BLOCK: CHAIN takes the ciphertext, never the plaintext. -/
def Obligations.DecBlockCompletes : Prop :=
  ∀ s : State, s.engineMoves = true → s.pend = some .decBlock →
    exec .decBlock s = .next
      { s with
        dout := pack (merge (blk s.chain) (decryptBlock s.alphabet (blk s.din) s.key.toNat))
        chain := s.din
        msgLen := s.msgLen + 16
        pend := none
        done := true
        inputs := s.inputs.tail }

/-- R160, R161, R163: the completion of DEC_FINAL, with its unpad report under the full alphabet, E_BAD_PAD where the count
exceeds the length, and none under the printable alphabet. -/
def Obligations.DecFinalCompletes : Prop :=
  ∀ s : State, s.engineMoves = true → s.pend = some .decFinal →
    let p := merge (blk s.chain) (decryptBlock s.alphabet (blk s.din) s.key.toNat)
    let T := s.msgLen + 16
    let last := p[15]
    let t : State :=
      { s with dout := pack p, chain := s.din, msgLen := T, session := .idle, pend := none, done := true,
               inputs := s.inputs.tail }
    exec .decFinal s = .next (
      if s.alphaSel = true then
        { t with padInfo := { padCnt := 0, padByte := 0, unpadSkipped := true }, outLen := T }
      else if last.toNat ≤ T.toNat then
        { t with padInfo := { padCnt := last, padByte := last, unpadSkipped := false }
                 outLen := T - last.setWidth 32 }
      else
        { t with padInfo := { padCnt := last, padByte := last, unpadSkipped := false }
                 outLen := 0
                 err := if s.err = .none then .badPad else s.err })

/-- R113, R114: the completion of RAW_ENC and RAW_DEC writes DOUT alone. -/
def Obligations.RawCommandsComplete : Prop :=
  ∀ s : State, s.engineMoves = true →
    (s.pend = some .rawEnc → exec .rawEnc s = .next
      { s with dout := pack (encryptBlock s.alphabet (blk s.din) s.key.toNat), pend := none, done := true,
               inputs := s.inputs.tail }) ∧
    (s.pend = some .rawDec → exec .rawDec s = .next
      { s with dout := pack (decryptBlock s.alphabet (blk s.din) s.key.toNat), pend := none, done := true,
               inputs := s.inputs.tail })

/-- R134, R185: the completion of LOAD_CHAIN writes CHAIN alone, and that of ABORT writes STATE alone. -/
def Obligations.LoadChainAndAbortComplete : Prop :=
  ∀ s : State, s.engineMoves = true →
    (s.pend = some .loadChain → exec .loadChain s = .next
      { s with chain := s.iv, pend := none, done := true, inputs := s.inputs.tail }) ∧
    (s.pend = some .abort → exec .abort s = .next
      { s with session := .idle, pend := none, done := true, inputs := s.inputs.tail })

/-- R162 (the bytes DIN[n..15] are not used): two engines about to complete the same legal ENC_FINAL, alike but for DIN
bytes n and up, end alike but for DIN. -/
def Obligations.EncFinalIgnoresDinTail : Prop :=
  ∀ (s t : State) (n : BitVec 4) (d : RegGroup), s.engineMoves = true → s.pend = some (.encFinal n) →
    legality (.encFinal n) s = none →
    (∀ j : Fin 16, j.val < n.toNat → (blk d)[j] = (blk s.din)[j]) →
    exec (.encFinal n) s = .next t → exec (.encFinal n) { s with din := d } = .next { t with din := d }

/-- R36: HEAD, after a session's ENC_BLOCKs: for a list of at most 0x0FFFFFFF plaintext blocks, the most that MSGLEN can
count (R33), fed to START_ENC's state one by one, position p of HEAD holds byte p of the plaintext if p < MSGLEN, and 0 if
not. -/
def Obligations.HeadHoldsTheFirst17Bytes : Prop :=
  ∀ (s : State) (ps : List Block), ps.length ≤ 0x0FFFFFFF →
    let t := ps.foldl (fun u p => encBlockEffect u.alphabet { u with din := pack p }) (startEncEffect s)
    t.msgLen.toNat = 16 * ps.length ∧ ∀ p : Fin 17, t.head[p] = (bytesOf ps).getD p.val 0

/-! ### The register window -/

/-- R27: a write of w to STATUS, in every state of an engine out of reset. -/
def Obligations.StatusWriteClearsDoneAndErr : Prop :=
  ∀ (s : State) (off : BitVec 8) (w : Word) (rest : List Event), s.rstN = true → regAt off = .status →
    s.inputs = busWriteEvent off w :: rest →
    step s = .next
      { s with
        done := if w.getLsbD 3 = true then false else s.done
        err := if w.getLsbD 8 = true then .none else s.err
        inputs := rest }

/-- R22, R24, R204: a write to CTRL or KEY: E_BUSY while busy, else E_LOCKED outside IDLE, else stored. -/
def Obligations.CtrlAndKeyWritesAreLocked : Prop :=
  ∀ (s : State) (off : BitVec 8) (w : Word) (rest : List Event), s.rstN = true →
    s.inputs = busWriteEvent off w :: rest → (regAt off = .ctrl ∨ regAt off = .key) →
    step s = .next (
      if s.busy then { s with err := if s.err = .none then .busy else s.err, inputs := rest }
      else if s.session ≠ .idle then { s with err := if s.err = .none then .locked else s.err, inputs := rest }
      else if regAt off = .ctrl then { s with alphaSel := w.getLsbD 0, inputs := rest }
      else { s with key := w, inputs := rest })

/-- R25, R30: a write to IVi or DINi: E_BUSY while busy, else stored in that register alone, in any STATE. -/
def Obligations.IvAndDinWrites : Prop :=
  ∀ (s : State) (off : BitVec 8) (w : Word) (rest : List Event) (i : Fin 4), s.rstN = true →
    s.inputs = busWriteEvent off w :: rest →
    (s.busy = true → (regAt off = .iv i ∨ regAt off = .din i) →
      step s = .next { s with err := if s.err = .none then .busy else s.err, inputs := rest }) ∧
    (s.busy = false → regAt off = .iv i → ∃ r : RegGroup,
      (∀ j : Fin 4, r[j] = if j = i then w else s.iv[j]) ∧ step s = .next { s with iv := r, inputs := rest }) ∧
    (s.busy = false → regAt off = .din i → ∃ r : RegGroup,
      (∀ j : Fin 4, r[j] = if j = i then w else s.din[j]) ∧ step s = .next { s with din := r, inputs := rest })

/-- R28, R66: a write to IRQEN is accepted in every state and stores bits [1:0]; a write to a read-only register or to a
reserved location has no effect and records no error. -/
def Obligations.IrqenAndIgnoredWrites : Prop :=
  ∀ (s : State) (off : BitVec 8) (w : Word) (rest : List Event), s.rstN = true →
    s.inputs = busWriteEvent off w :: rest →
    (regAt off = .irqen →
      step s = .next { s with ieDone := w.getLsbD 0, ieErr := w.getLsbD 1, inputs := rest }) ∧
    ((regAt off = .cap ∨ regAt off = .reserved ∨ (regAt off).isResult = true) →
      step s = .next { s with inputs := rest })

/-- R20: each offset of the table reaches its register, every other word offset (0x24 to 0x2C, 0x70 to 0xFC, with the
offsets inside those words) is reserved, and the host programs name each register by an aligned offset that reaches it. -/
def Obligations.RegisterMap : Prop :=
  (regAt 0x00 = .cap ∧ regAt 0x04 = .ctrl ∧ regAt 0x08 = .status ∧ regAt 0x0C = .irqen ∧ regAt 0x10 = .cmd ∧
    regAt 0x14 = .key ∧ regAt 0x18 = .msglen ∧ regAt 0x1C = .outlen ∧ regAt 0x20 = .padinfo) ∧
  (regAt 0x30 = .iv 0 ∧ regAt 0x34 = .iv 1 ∧ regAt 0x38 = .iv 2 ∧ regAt 0x3C = .iv 3) ∧
  (regAt 0x40 = .din 0 ∧ regAt 0x44 = .din 1 ∧ regAt 0x48 = .din 2 ∧ regAt 0x4C = .din 3) ∧
  (regAt 0x50 = .dout 0 ∧ regAt 0x54 = .dout 1 ∧ regAt 0x58 = .dout 2 ∧ regAt 0x5C = .dout 3) ∧
  (regAt 0x60 = .chain 0 ∧ regAt 0x64 = .chain 1 ∧ regAt 0x68 = .chain 2 ∧ regAt 0x6C = .chain 3) ∧
  (∀ off : BitVec 8, (0x24 ≤ off.toNat ∧ off.toNat < 0x30) ∨ 0x70 ≤ off.toNat → regAt off = .reserved) ∧
  ∀ r : Reg, regAt (offsetOf r) = r ∧ (offsetOf r).toNat % 4 = 0

/-- R65: offset bits [1:0] are ignored, for a write as for a read; an access narrower than 32 bits that selects the engine,
by its offset or by its platform address, is refused. -/
def Obligations.WidthAndAlignment : Prop :=
  (∀ (s t : State) (a b : BitVec 8) (w : Word) (rest : List Event),
    a.toNat / 4 = b.toNat / 4 → s.inputs = busWriteEvent a w :: rest → t = { s with inputs := busWriteEvent b w :: rest } →
    step s = step t) ∧
  (∀ (s : State) (a b : BitVec 8), a.toNat / 4 = b.toNat / 4 → s.readReg (regAt a) = s.readReg (regAt b)) ∧
  (∀ (s : State) (a : Access) (rest : List Event), a.width ≠ .word → s.inputs = .bus a :: rest →
    step s = .refused .narrowAccess) ∧
  (∀ (s : State) (off : BitVec 8) (width : Width) (op : BusOp) (rest : List Event), width ≠ .word →
    s.inputs = .busAt (Config.engineBase + off.toNat) width op :: rest → step s = .refused .narrowAccess)

/-- R61, R64: out of reset, a read of a register that is no result register, or any read while BUSY = 0, returns the
register's value and changes nothing in the engine. The value of KEY, IVi, DINi, DOUTi, CHAINi, MSGLEN and OUTLEN is that
register whole (R24, R25, R30 to R34); the others are put together from fields (`ReadableWordFields`). -/
def Obligations.ReadReturnsTheRegister : Prop :=
  (∀ (s : State) (off : BitVec 8) (rest : List Event), s.rstN = true → s.inputs = busReadEvent off :: rest →
    (s.busy = false ∨ (regAt off).isResult = false) →
    step s = .next
      { s with reads := s.reads ++ [{ off := off, value := s.readReg (regAt off) }], inputs := rest }) ∧
  ∀ s : State, s.readReg .key = s.key ∧ s.readReg .msglen = s.msgLen ∧ s.readReg .outlen = s.outLen ∧
    ∀ i : Fin 4, s.readReg (.iv i) = s.iv[i] ∧ s.readReg (.din i) = s.din[i] ∧ s.readReg (.dout i) = s.dout[i] ∧
      s.readReg (.chain i) = s.chain[i]

/-- R64: a read of a result register while BUSY = 1 has no relation to the old contents of the result registers, nor to the
new ones: two busy engines out of reset, however they differ in their registers and in the command in flight, answer it
alike, whatever the free value is (log 6). Only the model's own fields are taken to be the same. -/
def Obligations.BusyResultReadsAreFree : Prop :=
  ∀ (s t s' t' : State) (off : BitVec 8) (rest : List Event), s.rstN = true → t.rstN = true → s.busy = true →
    t.busy = true → (regAt off).isResult = true → s.inputs = busReadEvent off :: rest → t.inputs = s.inputs →
    t.reads = s.reads → t.draws = s.draws →
    step s = .next s' → step t = .next t' → t'.reads = s'.reads ∧ SameEngine s s' ∧ SameEngine t t'

/-- R22, R23, R26, R28, R29, R35, R66, R200: the bits of each word that a read of CAP, CTRL, STATUS, IRQEN, CMD, PADINFO or
a reserved location returns, and the numbers of the codes in STATUS.STATE and STATUS.ERR. -/
def Obligations.ReadableWordFields : Prop :=
  (Session.code .idle = 0 ∧ Session.code .enc = 1 ∧ Session.code .dec = 2) ∧
  (ErrCode.code .none = 0 ∧ ErrCode.code .illegal = 1 ∧ ErrCode.code .busy = 2 ∧ ErrCode.code .seq = 3 ∧
    ErrCode.code .locked = 4 ∧ ErrCode.code .len = 5 ∧ ErrCode.code .padRange = 6 ∧ ErrCode.code .badPad = 7) ∧
  ∀ s : State,
    (s.readReg .status).toNat =
      s.err.code.toNat * 16 + s.done.toNat * 8 + s.session.code.toNat * 2 + s.busy.toNat ∧
    (s.readReg .ctrl).toNat = s.alphaSel.toNat ∧
    (s.readReg .irqen).toNat = s.ieErr.toNat * 2 + s.ieDone.toNat ∧
    (s.readReg .padinfo).toNat =
      s.padInfo.unpadSkipped.toNat * 65536 + s.padInfo.padByte.toNat * 256 + s.padInfo.padCnt.toNat ∧
    (s.readReg .cap).toNat = Config.printAlpha.length * 256 + 16 ∧
    1 ≤ Config.printAlpha.length ∧ Config.printAlpha.length ≤ 255 ∧
    s.readReg .cmd = 0 ∧ s.readReg .reserved = 0

/-- R60 (sel), R68: an access at platform address ENGINE_BASE + off is the access at offset off. That one outside the window
does nothing to the engine, and takes a step of its own, is the model's choice (log 10). (Here the access is 32 bits wide;
a narrow one inside the window is refused, `WidthAndAlignment`.) -/
def Obligations.PlatformAddressSelectsTheWindow : Prop :=
  ∀ (s : State) (addr : Nat) (op : BusOp) (rest : List Event), s.inputs = .busAt addr .word op :: rest →
    (∀ off : BitVec 8, addr = Config.engineBase + off.toNat →
      step s = step { s with inputs := .bus { width := .word, off := off, op := op } :: rest }) ∧
    (addr < Config.engineBase ∨ Config.engineBase + 256 ≤ addr → step s = .next { s with inputs := rest })

/-! ### Errors, DONE, STATE, the interrupt -/

/-- R203, R208: while ERR holds an error, no step replaces it by another; only ERRCLR or reset clears it. -/
def Obligations.FirstErrorIsKept : Prop :=
  ∀ s t : State, s.err ≠ .none → step s = .next t → t.err ≠ s.err →
    t.err = .none ∧ (s.resets ∨ ∃ op off w, (s.inputs.head? = some (busWriteEvent off w) ∨
      ∃ addr, s.inputs.head? = some (.busAt addr .word op) ∧ op = .write w ∧ Config.windowOffset addr = some off) ∧
      regAt off = .status ∧ w.getLsbD 8 = true)

/-- R86, R26: only a completion sets DONE, and the one error a completion records is E_BAD_PAD, from DEC_FINAL. -/
def Obligations.OnlyCompletionSetsDone : Prop :=
  ∀ s t : State, step s = .next t →
    (s.done = false → t.done = true → s.completes) ∧
    (s.completes → t.err ≠ s.err → s.pend = some .decFinal ∧ s.alphaSel = false ∧ s.err = .none ∧ t.err = .badPad)

/-- R181: from a legal state, STATE changes only by the completion of a command, as the table says, or by reset. -/
def Obligations.SessionFollowsTheTable : Prop :=
  ∀ s t : State, Inv s → step s = .next t →
    (s.completes → ∃ i, s.pend = some i ∧ Transition i s.session t.session) ∧
    (¬ s.completes → t.session = s.session ∨ (s.resets ∧ t.session = .idle))

/-- R74: while a command stays in flight, no step changes any of its operands, nor the command, nor a result. -/
def Obligations.OperandsFrozenWhileBusy : Prop :=
  ∀ s t : State, s.busy = true → step s = .next t → t.busy = true →
    SameOperands s t ∧ t.pend = s.pend ∧ t.dout = s.dout ∧ t.outLen = s.outLen ∧ t.padInfo = s.padInfo ∧
    t.session = s.session

/-- R38: the interrupt output. -/
def Obligations.InterruptOutput : Prop :=
  ∀ s : State, s.irq = true ↔
    (s.ieDone = true ∧ s.done = true) ∨ (s.ieErr = true ∧ s.err.code ≠ 0)

/-- R209: with IE_DONE set, a completion of a legal state raises irq; a write of 0x108 to STATUS drops it. -/
def Obligations.InterruptRaisedAndAcknowledged : Prop :=
  (∀ s t : State, Inv s → s.completes → s.ieDone = true → step s = .next t → t.irq = true) ∧
  (∀ (s t : State) (off : BitVec 8) (rest : List Event), s.rstN = true → regAt off = .status →
    s.inputs = busWriteEvent off 0x00000108 :: rest → step s = .next t → t.irq = false)

/-- R205: a STATUS write and a completion in one cycle are the write and then the completion: DONE ends set, whatever the
write cleared. (The pair of events is the model's reading, log 12.) -/
def Obligations.DoneSetBeatsSameCycleClear : Prop :=
  ∀ (s : State) (w : Word) (rest : List Event), Inv s → s.rstN = true → s.busy = true →
    s.inputs = busWriteEvent 0x08 w :: .engine :: rest →
    ∃ t, Sys2Proof.core.run 2 s = .next t ∧ t.done = true ∧ t.pend = none ∧ t.inputs = rest

/-! ### Reset, invariants, completion in finite time -/

/-- R230, R232: a reset pulse gives every register its reset value, in every state, and discards a command in flight; while
rst_n is low a write has no effect and a read returns 0. The model's choices (log 8): the pin is a field with events of its
own, a pulse ends with the pin high even if it was low, and a reset keeps the model's own fields. -/
def Obligations.ResetEvents : Prop :=
  ∀ (s : State) (rest : List Event),
    (s.inputs = .reset :: rest →
      step s = .next { State.reset with inputs := rest, reads := s.reads, draws := s.draws }) ∧
    (s.inputs = .rstLow :: rest →
      step s = .next { State.reset with rstN := false, inputs := rest, reads := s.reads, draws := s.draws }) ∧
    (s.inputs = .rstHigh :: rest → step s = .next { s with rstN := true, inputs := rest }) ∧
    (∀ off w, s.rstN = false → s.inputs = busWriteEvent off w :: rest → step s = .next { s with inputs := rest }) ∧
    (∀ off, s.rstN = false → s.inputs = busReadEvent off :: rest →
      step s = .next { s with reads := s.reads ++ [{ off := off, value := 0 }], inputs := rest })

/-- R41: the reset value of every piece of state the spec names. -/
def Obligations.ResetValues : Prop :=
  let s := State.reset
  s.alphaSel = false ∧ s.busy = false ∧ s.session.code = 0 ∧ s.done = false ∧ s.err.code = 0 ∧
  s.ieDone = false ∧ s.ieErr = false ∧ s.key = 0 ∧ s.msgLen = 0 ∧ s.outLen = 0 ∧ s.padInfo.word = 0 ∧
  (∀ i : Fin 4, s.iv[i] = 0 ∧ s.din[i] = 0 ∧ s.dout[i] = 0 ∧ s.chain[i] = 0) ∧ (∀ p : Fin 17, s.head[p] = 0) ∧
  s.pend = none ∧ s.irq = false ∧ (s.readReg .cap).toNat = 16 + Config.printAlpha.length * 256

/-- The invariant of the legal states holds after reset. -/
def Obligations.ResetIsLegal : Prop := Inv State.reset

/-- Every step of every kind, from any legal state, ends in a legal state (R42 and its strengthening, `Inv`). -/
def Obligations.EveryStepKeepsTheInvariant : Prop :=
  ∀ s t : State, Inv s → step s = .next t → Inv t

/-- R42: in every state that any schedule of host accesses, resets and engine turns reaches from reset, the four items. In
this model the item on BUSY follows from its definition (log 4), and those on STATE and ERR from their types (log 5). -/
def Obligations.ReachableStatesAreLegal : Prop :=
  ∀ (es : List Event) (k : Nat) (t : State), Sys2Proof.core.run k { State.reset with inputs := es } = .next t →
    (t.msgLen.toNat % 16 = 0 ∧ t.msgLen.toNat ≤ 0xFFFFFFF0) ∧
    (t.session.code = 0 ∨ t.session.code = 1 ∨ t.session.code = 2) ∧
    (t.statusWord.getLsbD 0 = true ↔ ∃ i, t.pend = some i ∧ 1 ≤ (opcode i).toNat ∧ (opcode i).toNat ≤ 10) ∧
    t.err.code.toNat ≤ 7

/-- R206, R65: no step stops but at an access narrower than 32 bits. -/
def Obligations.OnlyNarrowAccessesStop : Prop :=
  ∀ s : State, (∀ e, s.inputs.head? = some e → e.admitted = true) → ∃ t, step s = .next t

/-- R71, R242: from a legal state with a command in flight, under any finite schedule of admitted events, the engine is not
busy at some moment within one step more than the schedule is long: the command completes, or a reset discards it (R232).
The bound rests on the model's choices that a schedule is a finite list and that an empty one gives the engine its turn
(logs 1 and 2). -/
def Obligations.BusyEndsInFiniteTime : Prop :=
  ∀ s : State, Inv s → s.busy = true → s.inputs.all Event.admitted = true →
    ∃ k t, k ≤ s.inputs.length + 1 ∧ Sys2Proof.core.run k s = .next t ∧ t.busy = false

/-- R87, R242: when the completion is taken does not matter to the end state: polling reads before it change nothing in what
it leaves in the engine. -/
def Obligations.CompletionTimeDoesNotMatter : Prop :=
  ∀ (s t u : State) (offs : List (BitVec 8)) (rest : List Event), s.rstN = true → Inv s → s.busy = true →
    Sys2Proof.core.run 1 { s with inputs := .engine :: rest } = .next t →
    Sys2Proof.core.run (offs.length + 1) { s with inputs := offs.map busReadEvent ++ .engine :: rest } = .next u →
    SameEngine t u ∧ u.inputs = t.inputs

/-! ### Packing, alphabet, substitution, permutation, block transform -/

/-- R62: byte i of a block is bits [8*(i mod 4)+7 : 8*(i mod 4)] of word i div 4; storing a block and reading it back gives
the block, and the other way round. -/
def Obligations.BlockPacking : Prop :=
  (∀ (r : RegGroup) (i : Fin 16), ((blk r)[i]).toNat = (r[i.val / 4]'(by omega)).toNat / 2 ^ (8 * (i.val % 4)) % 256) ∧
  (∀ (b : Block) (j : Fin 4), ((pack b)[j]).toNat =
    (b[4 * j.val]'(by omega)).toNat + (b[4 * j.val + 1]'(by omega)).toNat * 256 +
      (b[4 * j.val + 2]'(by omega)).toNat * 65536 + (b[4 * j.val + 3]'(by omega)).toNat * 16777216) ∧
  (∀ b : Block, blk (pack b) = b) ∧ (∀ r : RegGroup, pack (blk r) = r)

/-- R101, R102, R103: index_of finds the unique position of a byte, or none if it is absent; byte_at undoes it; under FULL
every byte is found and its index is its value. -/
def Obligations.AlphabetLookup : Prop :=
  (∀ (A : List Byte) (b : Byte) (i : Nat), A.Nodup → (indexOf A b = some i ↔ A[i]? = some b)) ∧
  (∀ (A : List Byte) (b : Byte), indexOf A b = none ↔ b ∉ A) ∧
  (∀ (A : List Byte) (b : Byte) (i : Nat), indexOf A b = some i → byteAt A i = b) ∧
  (∀ b : Byte, indexOf fullAlphabet b = some b.toNat)

/-- R106: the five substitution laws, for every alphabet. -/
def Obligations.SubstitutionLaws : Prop :=
  ∀ (A : List Byte) (b : Byte) (k : Nat), A.Nodup → 1 ≤ A.length →
    (unrotate A (rotate A b k) k = b ∧ rotate A (unrotate A b k) k = b) ∧
    (b ∉ A → rotate A b k = b ∧ unrotate A b k = b) ∧
    (b ∈ A ↔ rotate A b k ∈ A) ∧
    (∀ k', k % A.length = k' % A.length → rotate A b k = rotate A b k') ∧
    rotate A b 0 = b ∧ rotate A b A.length = b ∧
    (A.length = 1 → rotate A b k = b ∧ unrotate A b k = b)

/-- R107: under the full alphabet, rotate and unrotate are an 8-bit add and subtract that wrap. -/
def Obligations.FullAlphabetClosedForm : Prop :=
  (∀ (b : Byte) (k : Nat), rotate fullAlphabet b k = b + BitVec.ofNat 8 k ∧
    unrotate fullAlphabet b k = b - BitVec.ofNat 8 k) ∧
  (∀ (b : Byte) (k : Word), rotate fullAlphabet b k.toNat = b + k.extractLsb' 0 8 ∧
    unrotate fullAlphabet b k.toNat = b - k.extractLsb' 0 8)

/-- R110: shift and unshift undo each other, depend on the key mod 16 alone, and only move bytes. -/
def Obligations.PermutationLaws : Prop :=
  ∀ (B : Block) (k : Nat),
    unshift (shift B k) k = B ∧ shift (unshift B k) k = B ∧
    (∀ k', k % 16 = k' % 16 → shift B k = shift B k') ∧ (∀ m, shift B (16 * m) = B) ∧
    (shift B k).toList.Perm B.toList

/-- R112: decrypt_block undoes the shift and then the substitution; its three derived laws. -/
def Obligations.BlockTransformLaws : Prop :=
  ∀ (A : List Byte) (B : Block) (k : Nat), A.Nodup → 1 ≤ A.length →
    decryptBlock A B k = unrotateEach A (unshift B k) k ∧
    shift (rotateEach A B k) k = rotateEach A (shift B k) k ∧
    unrotateEach A (unshift B k) k = unshift (unrotateEach A B k) k ∧
    decryptBlock A (encryptBlock A B k) k = B ∧
    (∀ k', k % A.length = k' % A.length → k % 16 = k' % 16 → encryptBlock A B k = encryptBlock A B k') ∧
    (∀ k', k % Nat.lcm A.length 16 = k' % Nat.lcm A.length 16 → encryptBlock A B k = encryptBlock A B k') ∧
    (∀ k', k % 256 = k' % 256 → encryptBlock fullAlphabet B k = encryptBlock fullAlphabet B k')

/-- R130: merge is byte-wise XOR, commutative and its own inverse. -/
def Obligations.MergeLaws : Prop :=
  ∀ a b : Block, (∀ j : Fin 16, (merge a b)[j] = a[j] ^^^ b[j]) ∧ merge a b = merge b a ∧ merge (merge a b) b = a

/-! ### Chaining, padding and the pipelines -/

/-- R131, R136: block by block, the recurrences of CBC: each ciphertext block chains from the one before it (the IV for the
first), and each plaintext block is a function of its own ciphertext block and the one before it alone. -/
def Obligations.CbcRecurrences : Prop :=
  ∀ (A : List Byte) (k : Nat) (iv : Block) (bs : List Block) (i : Nat) (b : Block), bs[i]? = some b →
    (∀ prev, (iv :: cbcEncrypt A k iv bs)[i]? = some prev →
      (cbcEncrypt A k iv bs)[i]? = some (encryptBlock A (merge prev b) k)) ∧
    (∀ prev, (iv :: bs)[i]? = some prev →
      (cbcDecrypt A k iv bs)[i]? = some (merge prev (decryptBlock A b k)))

/-- R135: changing ciphertext block i alone can change plaintext blocks i and i + 1 only. -/
def Obligations.CbcErrorPropagation : Prop :=
  ∀ (A : List Byte) (k : Nat) (iv x : Block) (cs : List Block) (i j : Nat), j ≠ i → j ≠ i + 1 →
    (cbcDecrypt A k iv (cs.set i x))[j]? = (cbcDecrypt A k iv cs)[j]?

/-- R158: the padding length invariant, for both variants. -/
def Obligations.PaddingLengthInvariant : Prop :=
  ∀ (variantB : Bool) (A t u : List Byte), padText variantB A t = some u →
    u.length % 16 = 0 ∧ t.length < u.length ∧ u.length = 16 * (t.length / 16 + 1)

/-- R154: E_PAD_RANGE, for a printable alphabet of more than 16 bytes, rejects exactly the text lengths up to 8 and 16. -/
def Obligations.PadRangeRejectsShortTexts : Prop :=
  ∀ (s : State) (np : Nat) (n : BitVec 4), 16 < np → s.alphaSel = true → s.msgLen.toNat % 16 = 0 →
    (requirePadByte np n s = some .padRange ↔
      s.msgLen.toNat + n.toNat ≤ 8 ∨ s.msgLen.toNat + n.toNat = 16)

/-- R190: a key of any size gives the same encryption and decryption as its residue mod lcm(N, 16), which fits KEY. -/
def Obligations.LargeKeysReduce : Prop :=
  ∀ (a : Bool) (k : Nat) (iv : Block) (t : List Byte),
    let A := alphabetOf a
    let r := k % Nat.lcm A.length 16
    r < 2 ^ 32 ∧ encryptText a A r iv t = encryptText a A k iv t ∧ decryptPadded A r iv t = decryptPadded A k iv t

/-- R189: under the full alphabet, decrypting what encrypt gives returns the plaintext, for every plaintext, key and IV; under
the printable alphabet the first bytes of the decrypted text are the plaintext. -/
def Obligations.MessageRoundTrip : Prop :=
  ∀ (k : Nat) (iv : Block) (p c : List Byte),
    (encryptText false fullAlphabet k iv p = some c → decryptText fullAlphabet k iv c = some p) ∧
    (encryptText true Config.printAlpha k iv p = some c →
      (decryptPadded Config.printAlpha k iv c).take p.length = p)

/-- R186: the encrypt pipeline, started in IDLE and not busy, for every plaintext that MSGLEN can hold, with any number of
polls in each wait, its own for each (the form of a wait is the model's, log 15): it records no error, the bytes read from DOUT are the source's encrypt, and OUTLEN is 16(m + 1). -/
def Obligations.EncryptPipeline : Prop :=
  ∀ (s : State) (a : Bool) (k : Word) (iv fill : Block) (polls : Nat → Nat) (p c : List Byte) (rest : List Event),
    s.rstN = true → s.pend = none → s.session = .idle → p.length < 0xFFFFFFF0 →
    encryptText a (alphabetOf a) k.toNat iv p = some c →
    s.inputs = expandAll (encryptProgram a k iv polls fill p) ++ rest →
    ∃ t rs, Sys2Proof.core.run (expandAll (encryptProgram a k iv polls fill p)).length s = .next t ∧
      t.inputs = rest ∧ t.reads = s.reads ++ rs ∧ doutBytes rs = c ∧ t.err = s.err ∧
      t.outLen.toNat = 16 * (p.length / 16 + 1) ∧ t.session = .idle ∧ t.pend = none

/-- R187: the decrypt pipeline, started in IDLE and not busy, for every ciphertext of whole blocks that MSGLEN can hold, with
any number of polls in each wait, its own for each (the form of a wait is the model's, log 15). The
bytes Q read from DOUT are the decrypted blocks; under the full alphabet Q[0 : OUTLEN] is the source's decrypt, or
E_BAD_PAD is recorded where it has none; under the printable alphabet OUTLEN is the whole length. -/
def Obligations.DecryptPipeline : Prop :=
  ∀ (s : State) (a : Bool) (k : Word) (iv : Block) (polls : Nat → Nat) (c : List Byte) (rest : List Event),
    s.rstN = true → s.pend = none → s.session = .idle → hostMayDecrypt c = true → c.length ≤ 0xFFFFFFF0 →
    s.inputs = expandAll (decryptProgram a k iv polls c) ++ rest →
    ∃ t rs, Sys2Proof.core.run (expandAll (decryptProgram a k iv polls c)).length s = .next t ∧
      t.inputs = rest ∧ t.reads = s.reads ++ rs ∧ t.session = .idle ∧ t.pend = none ∧
      doutBytes rs = decryptPadded (alphabetOf a) k.toNat iv c ∧
      rs.getLast? = some { off := offsetOf .outlen, value := t.outLen } ∧
      (a = true → t.outLen.toNat = c.length ∧ t.padInfo.unpadSkipped = true ∧ t.err = s.err) ∧
      (∀ p, a = false → decryptText fullAlphabet k.toNat iv c = some p →
        (doutBytes rs).take t.outLen.toNat = p ∧ t.err = s.err) ∧
      (a = false → decryptText fullAlphabet k.toNat iv c = none →
        t.outLen = 0 ∧ t.err = if s.err = .none then .badPad else s.err)

/-- R188: inside a DEC session with room for a block, reseeding the chain with `wrblk IV; cmd LOAD_CHAIN; wait` and then
decrypting gives the plaintext of that block, whatever was decrypted before, with any number of polls in each of the two
waits (the form of a wait is the model's, log 15). -/
def Obligations.AnyOrderDecryption : Prop :=
  ∀ (s : State) (prev c : Block) (polls polls' : Nat) (rest : List Event), s.rstN = true → s.pend = none →
    s.session = .dec → s.msgLen.toNat < 0xFFFFFFF0 →
    let stmts : List Stmt :=
      [.wrblk .iv prev, .cmd .loadChain, .wait polls, .wrblk .din c, .cmd .decBlock, .wait polls']
    s.inputs = expandAll stmts ++ rest →
    ∃ t, Sys2Proof.core.run (expandAll stmts).length s = .next t ∧ t.inputs = rest ∧
      t.dout = pack (merge prev (decryptBlock s.alphabet c s.key.toNat)) ∧ t.chain = pack c ∧
      t.msgLen = s.msgLen + 16 ∧ t.session = .dec ∧ t.pend = none ∧ t.err = s.err
end

