-- ==== Sys2Proof/Laws/Config.lean ====
section
/-! SUPPORT. PRINT_ALPHA is a legal printable alphabet, and every legal printable alphabet is a possible PRINT_ALPHA
(spec R9, R100). -/

namespace Sys2Proof.Laws

open Sys2Proof

theorem printableOk_iff (A : List Byte) : printableOk A = true ↔ 1 ≤ A.length ∧ A.length ≤ 255 ∧ A.Nodup := by
  simp [printableOk, and_assoc]

/-- Whatever the raw choice, PRINT_ALPHA is ordered, free of duplicates and of 1 to 255 bytes. -/
theorem normalise_ok (raw : List Byte) : printableOk (Config.normalise raw) = true := by
  rw [printableOk_iff, Config.normalise]
  have hnd : (raw.dedup.take 255).Nodup := (List.nodup_dedup raw).sublist (List.take_sublist _ _)
  have hlen : (raw.dedup.take 255).length ≤ 255 := List.length_take_le _ _
  split
  · simp
  · rename_i a as h
    rw [h] at hnd hlen
    exact ⟨by simp, hlen, hnd⟩

/-- A legal printable alphabet is its own normal form, so no value that R9 allows is lost. -/
theorem normalise_of_ok {A : List Byte} (h : printableOk A = true) : Config.normalise A = A := by
  rw [printableOk_iff] at h
  obtain ⟨h1, h2, h3⟩ := h
  rw [Config.normalise, h3.dedup, List.take_of_length_le h2]
  cases A with
  | nil => simp at h1
  | cons a as => rfl

theorem printAlpha_ok : printableOk Config.printAlpha = true := normalise_ok _

theorem printAlpha_nodup : Config.printAlpha.Nodup := ((printableOk_iff _).1 printAlpha_ok).2.2

theorem one_le_printAlpha_length : 1 ≤ Config.printAlpha.length := ((printableOk_iff _).1 printAlpha_ok).1

theorem printAlpha_length_le : Config.printAlpha.length ≤ 255 := ((printableOk_iff _).1 printAlpha_ok).2.1

end Sys2Proof.Laws
end

