-- ==== Sys2Proof/Laws/State.lean ====
section
/-! SUPPORT. One lemma per field of State for each named update: what the update writes there, or that it leaves the field
as it was. All true by rfl; no later proof unfolds a record update. -/

namespace Sys2Proof.Laws

open Sys2Proof.Machine

/-! ### endStep -/

@[simp] theorem endStep_alphaSel (s : State) : s.endStep.alphaSel = s.alphaSel := rfl
@[simp] theorem endStep_session (s : State) : s.endStep.session = s.session := rfl
@[simp] theorem endStep_done (s : State) : s.endStep.done = s.done := rfl
@[simp] theorem endStep_err (s : State) : s.endStep.err = s.err := rfl
@[simp] theorem endStep_pend (s : State) : s.endStep.pend = s.pend := rfl
@[simp] theorem endStep_ieDone (s : State) : s.endStep.ieDone = s.ieDone := rfl
@[simp] theorem endStep_ieErr (s : State) : s.endStep.ieErr = s.ieErr := rfl
@[simp] theorem endStep_key (s : State) : s.endStep.key = s.key := rfl
@[simp] theorem endStep_msgLen (s : State) : s.endStep.msgLen = s.msgLen := rfl
@[simp] theorem endStep_outLen (s : State) : s.endStep.outLen = s.outLen := rfl
@[simp] theorem endStep_padInfo (s : State) : s.endStep.padInfo = s.padInfo := rfl
@[simp] theorem endStep_iv (s : State) : s.endStep.iv = s.iv := rfl
@[simp] theorem endStep_din (s : State) : s.endStep.din = s.din := rfl
@[simp] theorem endStep_dout (s : State) : s.endStep.dout = s.dout := rfl
@[simp] theorem endStep_chain (s : State) : s.endStep.chain = s.chain := rfl
@[simp] theorem endStep_head (s : State) : s.endStep.head = s.head := rfl
@[simp] theorem endStep_rstN (s : State) : s.endStep.rstN = s.rstN := rfl
@[simp] theorem endStep_inputs (s : State) : s.endStep.inputs = s.inputs.tail := rfl
@[simp] theorem endStep_reads (s : State) : s.endStep.reads = s.reads := rfl
@[simp] theorem endStep_draws (s : State) : s.endStep.draws = s.draws := rfl

/-! ### recordError -/

@[simp] theorem recordError_alphaSel (c : ErrCode) (s : State) : (recordError c s).alphaSel = s.alphaSel := rfl
@[simp] theorem recordError_session (c : ErrCode) (s : State) : (recordError c s).session = s.session := rfl
@[simp] theorem recordError_done (c : ErrCode) (s : State) : (recordError c s).done = s.done := rfl
@[simp] theorem recordError_err (c : ErrCode) (s : State) : (recordError c s).err = firstError s.err c := rfl
@[simp] theorem recordError_pend (c : ErrCode) (s : State) : (recordError c s).pend = s.pend := rfl
@[simp] theorem recordError_ieDone (c : ErrCode) (s : State) : (recordError c s).ieDone = s.ieDone := rfl
@[simp] theorem recordError_ieErr (c : ErrCode) (s : State) : (recordError c s).ieErr = s.ieErr := rfl
@[simp] theorem recordError_key (c : ErrCode) (s : State) : (recordError c s).key = s.key := rfl
@[simp] theorem recordError_msgLen (c : ErrCode) (s : State) : (recordError c s).msgLen = s.msgLen := rfl
@[simp] theorem recordError_outLen (c : ErrCode) (s : State) : (recordError c s).outLen = s.outLen := rfl
@[simp] theorem recordError_padInfo (c : ErrCode) (s : State) : (recordError c s).padInfo = s.padInfo := rfl
@[simp] theorem recordError_iv (c : ErrCode) (s : State) : (recordError c s).iv = s.iv := rfl
@[simp] theorem recordError_din (c : ErrCode) (s : State) : (recordError c s).din = s.din := rfl
@[simp] theorem recordError_dout (c : ErrCode) (s : State) : (recordError c s).dout = s.dout := rfl
@[simp] theorem recordError_chain (c : ErrCode) (s : State) : (recordError c s).chain = s.chain := rfl
@[simp] theorem recordError_head (c : ErrCode) (s : State) : (recordError c s).head = s.head := rfl
@[simp] theorem recordError_rstN (c : ErrCode) (s : State) : (recordError c s).rstN = s.rstN := rfl
@[simp] theorem recordError_inputs (c : ErrCode) (s : State) : (recordError c s).inputs = s.inputs := rfl
@[simp] theorem recordError_reads (c : ErrCode) (s : State) : (recordError c s).reads = s.reads := rfl
@[simp] theorem recordError_draws (c : ErrCode) (s : State) : (recordError c s).draws = s.draws := rfl

/-! ### writeStatus -/

@[simp] theorem writeStatus_alphaSel (w : Word) (s : State) : (writeStatus w s).alphaSel = s.alphaSel := rfl
@[simp] theorem writeStatus_session (w : Word) (s : State) : (writeStatus w s).session = s.session := rfl
@[simp] theorem writeStatus_done (w : Word) (s : State) : (writeStatus w s).done = doneAfterWrite w s.done := rfl
@[simp] theorem writeStatus_err (w : Word) (s : State) : (writeStatus w s).err = errAfterWrite w s.err := rfl
@[simp] theorem writeStatus_pend (w : Word) (s : State) : (writeStatus w s).pend = s.pend := rfl
@[simp] theorem writeStatus_ieDone (w : Word) (s : State) : (writeStatus w s).ieDone = s.ieDone := rfl
@[simp] theorem writeStatus_ieErr (w : Word) (s : State) : (writeStatus w s).ieErr = s.ieErr := rfl
@[simp] theorem writeStatus_key (w : Word) (s : State) : (writeStatus w s).key = s.key := rfl
@[simp] theorem writeStatus_msgLen (w : Word) (s : State) : (writeStatus w s).msgLen = s.msgLen := rfl
@[simp] theorem writeStatus_outLen (w : Word) (s : State) : (writeStatus w s).outLen = s.outLen := rfl
@[simp] theorem writeStatus_padInfo (w : Word) (s : State) : (writeStatus w s).padInfo = s.padInfo := rfl
@[simp] theorem writeStatus_iv (w : Word) (s : State) : (writeStatus w s).iv = s.iv := rfl
@[simp] theorem writeStatus_din (w : Word) (s : State) : (writeStatus w s).din = s.din := rfl
@[simp] theorem writeStatus_dout (w : Word) (s : State) : (writeStatus w s).dout = s.dout := rfl
@[simp] theorem writeStatus_chain (w : Word) (s : State) : (writeStatus w s).chain = s.chain := rfl
@[simp] theorem writeStatus_head (w : Word) (s : State) : (writeStatus w s).head = s.head := rfl
@[simp] theorem writeStatus_rstN (w : Word) (s : State) : (writeStatus w s).rstN = s.rstN := rfl
@[simp] theorem writeStatus_inputs (w : Word) (s : State) : (writeStatus w s).inputs = s.inputs := rfl
@[simp] theorem writeStatus_reads (w : Word) (s : State) : (writeStatus w s).reads = s.reads := rfl
@[simp] theorem writeStatus_draws (w : Word) (s : State) : (writeStatus w s).draws = s.draws := rfl

/-! ### accept -/

@[simp] theorem accept_alphaSel (i : Instr) (s : State) : (s.accept i).alphaSel = s.alphaSel := rfl
@[simp] theorem accept_session (i : Instr) (s : State) : (s.accept i).session = s.session := rfl
@[simp] theorem accept_done (i : Instr) (s : State) : (s.accept i).done = s.done := rfl
@[simp] theorem accept_err (i : Instr) (s : State) : (s.accept i).err = s.err := rfl
@[simp] theorem accept_pend (i : Instr) (s : State) : (s.accept i).pend = some i := rfl
@[simp] theorem accept_ieDone (i : Instr) (s : State) : (s.accept i).ieDone = s.ieDone := rfl
@[simp] theorem accept_ieErr (i : Instr) (s : State) : (s.accept i).ieErr = s.ieErr := rfl
@[simp] theorem accept_key (i : Instr) (s : State) : (s.accept i).key = s.key := rfl
@[simp] theorem accept_msgLen (i : Instr) (s : State) : (s.accept i).msgLen = s.msgLen := rfl
@[simp] theorem accept_outLen (i : Instr) (s : State) : (s.accept i).outLen = s.outLen := rfl
@[simp] theorem accept_padInfo (i : Instr) (s : State) : (s.accept i).padInfo = s.padInfo := rfl
@[simp] theorem accept_iv (i : Instr) (s : State) : (s.accept i).iv = s.iv := rfl
@[simp] theorem accept_din (i : Instr) (s : State) : (s.accept i).din = s.din := rfl
@[simp] theorem accept_dout (i : Instr) (s : State) : (s.accept i).dout = s.dout := rfl
@[simp] theorem accept_chain (i : Instr) (s : State) : (s.accept i).chain = s.chain := rfl
@[simp] theorem accept_head (i : Instr) (s : State) : (s.accept i).head = s.head := rfl
@[simp] theorem accept_rstN (i : Instr) (s : State) : (s.accept i).rstN = s.rstN := rfl
@[simp] theorem accept_inputs (i : Instr) (s : State) : (s.accept i).inputs = s.inputs := rfl
@[simp] theorem accept_reads (i : Instr) (s : State) : (s.accept i).reads = s.reads := rfl
@[simp] theorem accept_draws (i : Instr) (s : State) : (s.accept i).draws = s.draws := rfl

/-! ### finish -/

@[simp] theorem finish_alphaSel (s : State) : s.finish.alphaSel = s.alphaSel := rfl
@[simp] theorem finish_session (s : State) : s.finish.session = s.session := rfl
@[simp] theorem finish_done (s : State) : s.finish.done = true := rfl
@[simp] theorem finish_err (s : State) : s.finish.err = s.err := rfl
@[simp] theorem finish_pend (s : State) : s.finish.pend = none := rfl
@[simp] theorem finish_ieDone (s : State) : s.finish.ieDone = s.ieDone := rfl
@[simp] theorem finish_ieErr (s : State) : s.finish.ieErr = s.ieErr := rfl
@[simp] theorem finish_key (s : State) : s.finish.key = s.key := rfl
@[simp] theorem finish_msgLen (s : State) : s.finish.msgLen = s.msgLen := rfl
@[simp] theorem finish_outLen (s : State) : s.finish.outLen = s.outLen := rfl
@[simp] theorem finish_padInfo (s : State) : s.finish.padInfo = s.padInfo := rfl
@[simp] theorem finish_iv (s : State) : s.finish.iv = s.iv := rfl
@[simp] theorem finish_din (s : State) : s.finish.din = s.din := rfl
@[simp] theorem finish_dout (s : State) : s.finish.dout = s.dout := rfl
@[simp] theorem finish_chain (s : State) : s.finish.chain = s.chain := rfl
@[simp] theorem finish_head (s : State) : s.finish.head = s.head := rfl
@[simp] theorem finish_rstN (s : State) : s.finish.rstN = s.rstN := rfl
@[simp] theorem finish_inputs (s : State) : s.finish.inputs = s.inputs := rfl
@[simp] theorem finish_reads (s : State) : s.finish.reads = s.reads := rfl
@[simp] theorem finish_draws (s : State) : s.finish.draws = s.draws := rfl

/-! ### answerRead -/

@[simp] theorem answerRead_alphaSel (off : BitVec 8) (v : Word) (s : State) : (s.answerRead off v).alphaSel = s.alphaSel := rfl
@[simp] theorem answerRead_session (off : BitVec 8) (v : Word) (s : State) : (s.answerRead off v).session = s.session := rfl
@[simp] theorem answerRead_done (off : BitVec 8) (v : Word) (s : State) : (s.answerRead off v).done = s.done := rfl
@[simp] theorem answerRead_err (off : BitVec 8) (v : Word) (s : State) : (s.answerRead off v).err = s.err := rfl
@[simp] theorem answerRead_pend (off : BitVec 8) (v : Word) (s : State) : (s.answerRead off v).pend = s.pend := rfl
@[simp] theorem answerRead_ieDone (off : BitVec 8) (v : Word) (s : State) : (s.answerRead off v).ieDone = s.ieDone := rfl
@[simp] theorem answerRead_ieErr (off : BitVec 8) (v : Word) (s : State) : (s.answerRead off v).ieErr = s.ieErr := rfl
@[simp] theorem answerRead_key (off : BitVec 8) (v : Word) (s : State) : (s.answerRead off v).key = s.key := rfl
@[simp] theorem answerRead_msgLen (off : BitVec 8) (v : Word) (s : State) : (s.answerRead off v).msgLen = s.msgLen := rfl
@[simp] theorem answerRead_outLen (off : BitVec 8) (v : Word) (s : State) : (s.answerRead off v).outLen = s.outLen := rfl
@[simp] theorem answerRead_padInfo (off : BitVec 8) (v : Word) (s : State) : (s.answerRead off v).padInfo = s.padInfo := rfl
@[simp] theorem answerRead_iv (off : BitVec 8) (v : Word) (s : State) : (s.answerRead off v).iv = s.iv := rfl
@[simp] theorem answerRead_din (off : BitVec 8) (v : Word) (s : State) : (s.answerRead off v).din = s.din := rfl
@[simp] theorem answerRead_dout (off : BitVec 8) (v : Word) (s : State) : (s.answerRead off v).dout = s.dout := rfl
@[simp] theorem answerRead_chain (off : BitVec 8) (v : Word) (s : State) : (s.answerRead off v).chain = s.chain := rfl
@[simp] theorem answerRead_head (off : BitVec 8) (v : Word) (s : State) : (s.answerRead off v).head = s.head := rfl
@[simp] theorem answerRead_rstN (off : BitVec 8) (v : Word) (s : State) : (s.answerRead off v).rstN = s.rstN := rfl
@[simp] theorem answerRead_inputs (off : BitVec 8) (v : Word) (s : State) : (s.answerRead off v).inputs = s.inputs := rfl
@[simp] theorem answerRead_reads (off : BitVec 8) (v : Word) (s : State) : (s.answerRead off v).reads = s.reads ++ [{ off := off, value := v }] := rfl
@[simp] theorem answerRead_draws (off : BitVec 8) (v : Word) (s : State) : (s.answerRead off v).draws = s.draws := rfl

/-! ### releaseReset -/

@[simp] theorem releaseReset_alphaSel (s : State) : (releaseReset s).alphaSel = s.alphaSel := rfl
@[simp] theorem releaseReset_session (s : State) : (releaseReset s).session = s.session := rfl
@[simp] theorem releaseReset_done (s : State) : (releaseReset s).done = s.done := rfl
@[simp] theorem releaseReset_err (s : State) : (releaseReset s).err = s.err := rfl
@[simp] theorem releaseReset_pend (s : State) : (releaseReset s).pend = s.pend := rfl
@[simp] theorem releaseReset_ieDone (s : State) : (releaseReset s).ieDone = s.ieDone := rfl
@[simp] theorem releaseReset_ieErr (s : State) : (releaseReset s).ieErr = s.ieErr := rfl
@[simp] theorem releaseReset_key (s : State) : (releaseReset s).key = s.key := rfl
@[simp] theorem releaseReset_msgLen (s : State) : (releaseReset s).msgLen = s.msgLen := rfl
@[simp] theorem releaseReset_outLen (s : State) : (releaseReset s).outLen = s.outLen := rfl
@[simp] theorem releaseReset_padInfo (s : State) : (releaseReset s).padInfo = s.padInfo := rfl
@[simp] theorem releaseReset_iv (s : State) : (releaseReset s).iv = s.iv := rfl
@[simp] theorem releaseReset_din (s : State) : (releaseReset s).din = s.din := rfl
@[simp] theorem releaseReset_dout (s : State) : (releaseReset s).dout = s.dout := rfl
@[simp] theorem releaseReset_chain (s : State) : (releaseReset s).chain = s.chain := rfl
@[simp] theorem releaseReset_head (s : State) : (releaseReset s).head = s.head := rfl
@[simp] theorem releaseReset_rstN (s : State) : (releaseReset s).rstN = true := rfl
@[simp] theorem releaseReset_inputs (s : State) : (releaseReset s).inputs = s.inputs.tail := rfl
@[simp] theorem releaseReset_reads (s : State) : (releaseReset s).reads = s.reads := rfl
@[simp] theorem releaseReset_draws (s : State) : (releaseReset s).draws = s.draws := rfl

/-! ### rawEncEffect -/

@[simp] theorem rawEncEffect_alphaSel (A : List Byte) (s : State) : (rawEncEffect A s).alphaSel = s.alphaSel := rfl
@[simp] theorem rawEncEffect_session (A : List Byte) (s : State) : (rawEncEffect A s).session = s.session := rfl
@[simp] theorem rawEncEffect_done (A : List Byte) (s : State) : (rawEncEffect A s).done = s.done := rfl
@[simp] theorem rawEncEffect_err (A : List Byte) (s : State) : (rawEncEffect A s).err = s.err := rfl
@[simp] theorem rawEncEffect_pend (A : List Byte) (s : State) : (rawEncEffect A s).pend = s.pend := rfl
@[simp] theorem rawEncEffect_ieDone (A : List Byte) (s : State) : (rawEncEffect A s).ieDone = s.ieDone := rfl
@[simp] theorem rawEncEffect_ieErr (A : List Byte) (s : State) : (rawEncEffect A s).ieErr = s.ieErr := rfl
@[simp] theorem rawEncEffect_key (A : List Byte) (s : State) : (rawEncEffect A s).key = s.key := rfl
@[simp] theorem rawEncEffect_msgLen (A : List Byte) (s : State) : (rawEncEffect A s).msgLen = s.msgLen := rfl
@[simp] theorem rawEncEffect_outLen (A : List Byte) (s : State) : (rawEncEffect A s).outLen = s.outLen := rfl
@[simp] theorem rawEncEffect_padInfo (A : List Byte) (s : State) : (rawEncEffect A s).padInfo = s.padInfo := rfl
@[simp] theorem rawEncEffect_iv (A : List Byte) (s : State) : (rawEncEffect A s).iv = s.iv := rfl
@[simp] theorem rawEncEffect_din (A : List Byte) (s : State) : (rawEncEffect A s).din = s.din := rfl
@[simp] theorem rawEncEffect_dout (A : List Byte) (s : State) : (rawEncEffect A s).dout = pack (encryptBlock A (blk s.din) s.keyNat) := rfl
@[simp] theorem rawEncEffect_chain (A : List Byte) (s : State) : (rawEncEffect A s).chain = s.chain := rfl
@[simp] theorem rawEncEffect_head (A : List Byte) (s : State) : (rawEncEffect A s).head = s.head := rfl
@[simp] theorem rawEncEffect_rstN (A : List Byte) (s : State) : (rawEncEffect A s).rstN = s.rstN := rfl
@[simp] theorem rawEncEffect_inputs (A : List Byte) (s : State) : (rawEncEffect A s).inputs = s.inputs := rfl
@[simp] theorem rawEncEffect_reads (A : List Byte) (s : State) : (rawEncEffect A s).reads = s.reads := rfl
@[simp] theorem rawEncEffect_draws (A : List Byte) (s : State) : (rawEncEffect A s).draws = s.draws := rfl

/-! ### rawDecEffect -/

@[simp] theorem rawDecEffect_alphaSel (A : List Byte) (s : State) : (rawDecEffect A s).alphaSel = s.alphaSel := rfl
@[simp] theorem rawDecEffect_session (A : List Byte) (s : State) : (rawDecEffect A s).session = s.session := rfl
@[simp] theorem rawDecEffect_done (A : List Byte) (s : State) : (rawDecEffect A s).done = s.done := rfl
@[simp] theorem rawDecEffect_err (A : List Byte) (s : State) : (rawDecEffect A s).err = s.err := rfl
@[simp] theorem rawDecEffect_pend (A : List Byte) (s : State) : (rawDecEffect A s).pend = s.pend := rfl
@[simp] theorem rawDecEffect_ieDone (A : List Byte) (s : State) : (rawDecEffect A s).ieDone = s.ieDone := rfl
@[simp] theorem rawDecEffect_ieErr (A : List Byte) (s : State) : (rawDecEffect A s).ieErr = s.ieErr := rfl
@[simp] theorem rawDecEffect_key (A : List Byte) (s : State) : (rawDecEffect A s).key = s.key := rfl
@[simp] theorem rawDecEffect_msgLen (A : List Byte) (s : State) : (rawDecEffect A s).msgLen = s.msgLen := rfl
@[simp] theorem rawDecEffect_outLen (A : List Byte) (s : State) : (rawDecEffect A s).outLen = s.outLen := rfl
@[simp] theorem rawDecEffect_padInfo (A : List Byte) (s : State) : (rawDecEffect A s).padInfo = s.padInfo := rfl
@[simp] theorem rawDecEffect_iv (A : List Byte) (s : State) : (rawDecEffect A s).iv = s.iv := rfl
@[simp] theorem rawDecEffect_din (A : List Byte) (s : State) : (rawDecEffect A s).din = s.din := rfl
@[simp] theorem rawDecEffect_dout (A : List Byte) (s : State) : (rawDecEffect A s).dout = pack (decryptBlock A (blk s.din) s.keyNat) := rfl
@[simp] theorem rawDecEffect_chain (A : List Byte) (s : State) : (rawDecEffect A s).chain = s.chain := rfl
@[simp] theorem rawDecEffect_head (A : List Byte) (s : State) : (rawDecEffect A s).head = s.head := rfl
@[simp] theorem rawDecEffect_rstN (A : List Byte) (s : State) : (rawDecEffect A s).rstN = s.rstN := rfl
@[simp] theorem rawDecEffect_inputs (A : List Byte) (s : State) : (rawDecEffect A s).inputs = s.inputs := rfl
@[simp] theorem rawDecEffect_reads (A : List Byte) (s : State) : (rawDecEffect A s).reads = s.reads := rfl
@[simp] theorem rawDecEffect_draws (A : List Byte) (s : State) : (rawDecEffect A s).draws = s.draws := rfl

/-! ### encBlockEffect -/

@[simp] theorem encBlockEffect_alphaSel (A : List Byte) (s : State) : (encBlockEffect A s).alphaSel = s.alphaSel := rfl
@[simp] theorem encBlockEffect_session (A : List Byte) (s : State) : (encBlockEffect A s).session = s.session := rfl
@[simp] theorem encBlockEffect_done (A : List Byte) (s : State) : (encBlockEffect A s).done = s.done := rfl
@[simp] theorem encBlockEffect_err (A : List Byte) (s : State) : (encBlockEffect A s).err = s.err := rfl
@[simp] theorem encBlockEffect_pend (A : List Byte) (s : State) : (encBlockEffect A s).pend = s.pend := rfl
@[simp] theorem encBlockEffect_ieDone (A : List Byte) (s : State) : (encBlockEffect A s).ieDone = s.ieDone := rfl
@[simp] theorem encBlockEffect_ieErr (A : List Byte) (s : State) : (encBlockEffect A s).ieErr = s.ieErr := rfl
@[simp] theorem encBlockEffect_key (A : List Byte) (s : State) : (encBlockEffect A s).key = s.key := rfl
@[simp] theorem encBlockEffect_msgLen (A : List Byte) (s : State) : (encBlockEffect A s).msgLen = s.nextLen := rfl
@[simp] theorem encBlockEffect_outLen (A : List Byte) (s : State) : (encBlockEffect A s).outLen = s.outLen := rfl
@[simp] theorem encBlockEffect_padInfo (A : List Byte) (s : State) : (encBlockEffect A s).padInfo = s.padInfo := rfl
@[simp] theorem encBlockEffect_iv (A : List Byte) (s : State) : (encBlockEffect A s).iv = s.iv := rfl
@[simp] theorem encBlockEffect_din (A : List Byte) (s : State) : (encBlockEffect A s).din = s.din := rfl
@[simp] theorem encBlockEffect_dout (A : List Byte) (s : State) : (encBlockEffect A s).dout = pack (s.chainEncrypt A (blk s.din)) := rfl
@[simp] theorem encBlockEffect_chain (A : List Byte) (s : State) : (encBlockEffect A s).chain = pack (s.chainEncrypt A (blk s.din)) := rfl
@[simp] theorem encBlockEffect_head (A : List Byte) (s : State) : (encBlockEffect A s).head = captureHead s.len (blk s.din) s.head := rfl
@[simp] theorem encBlockEffect_rstN (A : List Byte) (s : State) : (encBlockEffect A s).rstN = s.rstN := rfl
@[simp] theorem encBlockEffect_inputs (A : List Byte) (s : State) : (encBlockEffect A s).inputs = s.inputs := rfl
@[simp] theorem encBlockEffect_reads (A : List Byte) (s : State) : (encBlockEffect A s).reads = s.reads := rfl
@[simp] theorem encBlockEffect_draws (A : List Byte) (s : State) : (encBlockEffect A s).draws = s.draws := rfl

/-! ### decBlockEffect -/

@[simp] theorem decBlockEffect_alphaSel (A : List Byte) (s : State) : (decBlockEffect A s).alphaSel = s.alphaSel := rfl
@[simp] theorem decBlockEffect_session (A : List Byte) (s : State) : (decBlockEffect A s).session = s.session := rfl
@[simp] theorem decBlockEffect_done (A : List Byte) (s : State) : (decBlockEffect A s).done = s.done := rfl
@[simp] theorem decBlockEffect_err (A : List Byte) (s : State) : (decBlockEffect A s).err = s.err := rfl
@[simp] theorem decBlockEffect_pend (A : List Byte) (s : State) : (decBlockEffect A s).pend = s.pend := rfl
@[simp] theorem decBlockEffect_ieDone (A : List Byte) (s : State) : (decBlockEffect A s).ieDone = s.ieDone := rfl
@[simp] theorem decBlockEffect_ieErr (A : List Byte) (s : State) : (decBlockEffect A s).ieErr = s.ieErr := rfl
@[simp] theorem decBlockEffect_key (A : List Byte) (s : State) : (decBlockEffect A s).key = s.key := rfl
@[simp] theorem decBlockEffect_msgLen (A : List Byte) (s : State) : (decBlockEffect A s).msgLen = s.nextLen := rfl
@[simp] theorem decBlockEffect_outLen (A : List Byte) (s : State) : (decBlockEffect A s).outLen = s.outLen := rfl
@[simp] theorem decBlockEffect_padInfo (A : List Byte) (s : State) : (decBlockEffect A s).padInfo = s.padInfo := rfl
@[simp] theorem decBlockEffect_iv (A : List Byte) (s : State) : (decBlockEffect A s).iv = s.iv := rfl
@[simp] theorem decBlockEffect_din (A : List Byte) (s : State) : (decBlockEffect A s).din = s.din := rfl
@[simp] theorem decBlockEffect_dout (A : List Byte) (s : State) : (decBlockEffect A s).dout = pack (s.chainDecrypt A) := rfl
@[simp] theorem decBlockEffect_chain (A : List Byte) (s : State) : (decBlockEffect A s).chain = s.din := rfl
@[simp] theorem decBlockEffect_head (A : List Byte) (s : State) : (decBlockEffect A s).head = s.head := rfl
@[simp] theorem decBlockEffect_rstN (A : List Byte) (s : State) : (decBlockEffect A s).rstN = s.rstN := rfl
@[simp] theorem decBlockEffect_inputs (A : List Byte) (s : State) : (decBlockEffect A s).inputs = s.inputs := rfl
@[simp] theorem decBlockEffect_reads (A : List Byte) (s : State) : (decBlockEffect A s).reads = s.reads := rfl
@[simp] theorem decBlockEffect_draws (A : List Byte) (s : State) : (decBlockEffect A s).draws = s.draws := rfl

/-! ### loadChainEffect -/

@[simp] theorem loadChainEffect_alphaSel (s : State) : (loadChainEffect s).alphaSel = s.alphaSel := rfl
@[simp] theorem loadChainEffect_session (s : State) : (loadChainEffect s).session = s.session := rfl
@[simp] theorem loadChainEffect_done (s : State) : (loadChainEffect s).done = s.done := rfl
@[simp] theorem loadChainEffect_err (s : State) : (loadChainEffect s).err = s.err := rfl
@[simp] theorem loadChainEffect_pend (s : State) : (loadChainEffect s).pend = s.pend := rfl
@[simp] theorem loadChainEffect_ieDone (s : State) : (loadChainEffect s).ieDone = s.ieDone := rfl
@[simp] theorem loadChainEffect_ieErr (s : State) : (loadChainEffect s).ieErr = s.ieErr := rfl
@[simp] theorem loadChainEffect_key (s : State) : (loadChainEffect s).key = s.key := rfl
@[simp] theorem loadChainEffect_msgLen (s : State) : (loadChainEffect s).msgLen = s.msgLen := rfl
@[simp] theorem loadChainEffect_outLen (s : State) : (loadChainEffect s).outLen = s.outLen := rfl
@[simp] theorem loadChainEffect_padInfo (s : State) : (loadChainEffect s).padInfo = s.padInfo := rfl
@[simp] theorem loadChainEffect_iv (s : State) : (loadChainEffect s).iv = s.iv := rfl
@[simp] theorem loadChainEffect_din (s : State) : (loadChainEffect s).din = s.din := rfl
@[simp] theorem loadChainEffect_dout (s : State) : (loadChainEffect s).dout = s.dout := rfl
@[simp] theorem loadChainEffect_chain (s : State) : (loadChainEffect s).chain = s.iv := rfl
@[simp] theorem loadChainEffect_head (s : State) : (loadChainEffect s).head = s.head := rfl
@[simp] theorem loadChainEffect_rstN (s : State) : (loadChainEffect s).rstN = s.rstN := rfl
@[simp] theorem loadChainEffect_inputs (s : State) : (loadChainEffect s).inputs = s.inputs := rfl
@[simp] theorem loadChainEffect_reads (s : State) : (loadChainEffect s).reads = s.reads := rfl
@[simp] theorem loadChainEffect_draws (s : State) : (loadChainEffect s).draws = s.draws := rfl

/-! ### encFinalEffect -/

@[simp] theorem encFinalEffect_alphaSel (A : List Byte) (n : BitVec 4) (s : State) : (encFinalEffect A n s).alphaSel = s.alphaSel := rfl
@[simp] theorem encFinalEffect_session (A : List Byte) (n : BitVec 4) (s : State) : (encFinalEffect A n s).session = .idle := rfl
@[simp] theorem encFinalEffect_done (A : List Byte) (n : BitVec 4) (s : State) : (encFinalEffect A n s).done = s.done := rfl
@[simp] theorem encFinalEffect_err (A : List Byte) (n : BitVec 4) (s : State) : (encFinalEffect A n s).err = s.err := rfl
@[simp] theorem encFinalEffect_pend (A : List Byte) (n : BitVec 4) (s : State) : (encFinalEffect A n s).pend = s.pend := rfl
@[simp] theorem encFinalEffect_ieDone (A : List Byte) (n : BitVec 4) (s : State) : (encFinalEffect A n s).ieDone = s.ieDone := rfl
@[simp] theorem encFinalEffect_ieErr (A : List Byte) (n : BitVec 4) (s : State) : (encFinalEffect A n s).ieErr = s.ieErr := rfl
@[simp] theorem encFinalEffect_key (A : List Byte) (n : BitVec 4) (s : State) : (encFinalEffect A n s).key = s.key := rfl
@[simp] theorem encFinalEffect_msgLen (A : List Byte) (n : BitVec 4) (s : State) : (encFinalEffect A n s).msgLen = s.nextLen := rfl
@[simp] theorem encFinalEffect_outLen (A : List Byte) (n : BitVec 4) (s : State) : (encFinalEffect A n s).outLen = s.nextLen := rfl
@[simp] theorem encFinalEffect_padInfo (A : List Byte) (n : BitVec 4) (s : State) : (encFinalEffect A n s).padInfo = { padCnt := BitVec.ofNat 8 (padCount n), padByte := padByteOf A n s, unpadSkipped := false } := rfl
@[simp] theorem encFinalEffect_iv (A : List Byte) (n : BitVec 4) (s : State) : (encFinalEffect A n s).iv = s.iv := rfl
@[simp] theorem encFinalEffect_din (A : List Byte) (n : BitVec 4) (s : State) : (encFinalEffect A n s).din = s.din := rfl
@[simp] theorem encFinalEffect_dout (A : List Byte) (n : BitVec 4) (s : State) : (encFinalEffect A n s).dout = pack (s.chainEncrypt A (paddedBlock n (padByteOf A n s) (blk s.din))) := rfl
@[simp] theorem encFinalEffect_chain (A : List Byte) (n : BitVec 4) (s : State) : (encFinalEffect A n s).chain = pack (s.chainEncrypt A (paddedBlock n (padByteOf A n s) (blk s.din))) := rfl
@[simp] theorem encFinalEffect_head (A : List Byte) (n : BitVec 4) (s : State) : (encFinalEffect A n s).head = s.head := rfl
@[simp] theorem encFinalEffect_rstN (A : List Byte) (n : BitVec 4) (s : State) : (encFinalEffect A n s).rstN = s.rstN := rfl
@[simp] theorem encFinalEffect_inputs (A : List Byte) (n : BitVec 4) (s : State) : (encFinalEffect A n s).inputs = s.inputs := rfl
@[simp] theorem encFinalEffect_reads (A : List Byte) (n : BitVec 4) (s : State) : (encFinalEffect A n s).reads = s.reads := rfl
@[simp] theorem encFinalEffect_draws (A : List Byte) (n : BitVec 4) (s : State) : (encFinalEffect A n s).draws = s.draws := rfl

/-! ### reportUnpad -/

@[simp] theorem reportUnpad_alphaSel (T : Word) (last : Byte) (s : State) : (reportUnpad T last s).alphaSel = s.alphaSel := rfl
@[simp] theorem reportUnpad_session (T : Word) (last : Byte) (s : State) : (reportUnpad T last s).session = s.session := rfl
@[simp] theorem reportUnpad_done (T : Word) (last : Byte) (s : State) : (reportUnpad T last s).done = s.done := rfl
@[simp] theorem reportUnpad_err (T : Word) (last : Byte) (s : State) : (reportUnpad T last s).err = if last.toNat ≤ T.toNat then s.err else firstError s.err .badPad := rfl
@[simp] theorem reportUnpad_pend (T : Word) (last : Byte) (s : State) : (reportUnpad T last s).pend = s.pend := rfl
@[simp] theorem reportUnpad_ieDone (T : Word) (last : Byte) (s : State) : (reportUnpad T last s).ieDone = s.ieDone := rfl
@[simp] theorem reportUnpad_ieErr (T : Word) (last : Byte) (s : State) : (reportUnpad T last s).ieErr = s.ieErr := rfl
@[simp] theorem reportUnpad_key (T : Word) (last : Byte) (s : State) : (reportUnpad T last s).key = s.key := rfl
@[simp] theorem reportUnpad_msgLen (T : Word) (last : Byte) (s : State) : (reportUnpad T last s).msgLen = s.msgLen := rfl
@[simp] theorem reportUnpad_outLen (T : Word) (last : Byte) (s : State) : (reportUnpad T last s).outLen = unpadLen T last := rfl
@[simp] theorem reportUnpad_padInfo (T : Word) (last : Byte) (s : State) : (reportUnpad T last s).padInfo = { padCnt := last, padByte := last, unpadSkipped := false } := rfl
@[simp] theorem reportUnpad_iv (T : Word) (last : Byte) (s : State) : (reportUnpad T last s).iv = s.iv := rfl
@[simp] theorem reportUnpad_din (T : Word) (last : Byte) (s : State) : (reportUnpad T last s).din = s.din := rfl
@[simp] theorem reportUnpad_dout (T : Word) (last : Byte) (s : State) : (reportUnpad T last s).dout = s.dout := rfl
@[simp] theorem reportUnpad_chain (T : Word) (last : Byte) (s : State) : (reportUnpad T last s).chain = s.chain := rfl
@[simp] theorem reportUnpad_head (T : Word) (last : Byte) (s : State) : (reportUnpad T last s).head = s.head := rfl
@[simp] theorem reportUnpad_rstN (T : Word) (last : Byte) (s : State) : (reportUnpad T last s).rstN = s.rstN := rfl
@[simp] theorem reportUnpad_inputs (T : Word) (last : Byte) (s : State) : (reportUnpad T last s).inputs = s.inputs := rfl
@[simp] theorem reportUnpad_reads (T : Word) (last : Byte) (s : State) : (reportUnpad T last s).reads = s.reads := rfl
@[simp] theorem reportUnpad_draws (T : Word) (last : Byte) (s : State) : (reportUnpad T last s).draws = s.draws := rfl

/-! ### skipUnpad -/

@[simp] theorem skipUnpad_alphaSel (T : Word) (s : State) : (skipUnpad T s).alphaSel = s.alphaSel := rfl
@[simp] theorem skipUnpad_session (T : Word) (s : State) : (skipUnpad T s).session = s.session := rfl
@[simp] theorem skipUnpad_done (T : Word) (s : State) : (skipUnpad T s).done = s.done := rfl
@[simp] theorem skipUnpad_err (T : Word) (s : State) : (skipUnpad T s).err = s.err := rfl
@[simp] theorem skipUnpad_pend (T : Word) (s : State) : (skipUnpad T s).pend = s.pend := rfl
@[simp] theorem skipUnpad_ieDone (T : Word) (s : State) : (skipUnpad T s).ieDone = s.ieDone := rfl
@[simp] theorem skipUnpad_ieErr (T : Word) (s : State) : (skipUnpad T s).ieErr = s.ieErr := rfl
@[simp] theorem skipUnpad_key (T : Word) (s : State) : (skipUnpad T s).key = s.key := rfl
@[simp] theorem skipUnpad_msgLen (T : Word) (s : State) : (skipUnpad T s).msgLen = s.msgLen := rfl
@[simp] theorem skipUnpad_outLen (T : Word) (s : State) : (skipUnpad T s).outLen = T := rfl
@[simp] theorem skipUnpad_padInfo (T : Word) (s : State) : (skipUnpad T s).padInfo = { padCnt := 0, padByte := 0, unpadSkipped := true } := rfl
@[simp] theorem skipUnpad_iv (T : Word) (s : State) : (skipUnpad T s).iv = s.iv := rfl
@[simp] theorem skipUnpad_din (T : Word) (s : State) : (skipUnpad T s).din = s.din := rfl
@[simp] theorem skipUnpad_dout (T : Word) (s : State) : (skipUnpad T s).dout = s.dout := rfl
@[simp] theorem skipUnpad_chain (T : Word) (s : State) : (skipUnpad T s).chain = s.chain := rfl
@[simp] theorem skipUnpad_head (T : Word) (s : State) : (skipUnpad T s).head = s.head := rfl
@[simp] theorem skipUnpad_rstN (T : Word) (s : State) : (skipUnpad T s).rstN = s.rstN := rfl
@[simp] theorem skipUnpad_inputs (T : Word) (s : State) : (skipUnpad T s).inputs = s.inputs := rfl
@[simp] theorem skipUnpad_reads (T : Word) (s : State) : (skipUnpad T s).reads = s.reads := rfl
@[simp] theorem skipUnpad_draws (T : Word) (s : State) : (skipUnpad T s).draws = s.draws := rfl

/-! ### openSession -/

@[simp] theorem openSession_alphaSel (q : Session) (s : State) : (openSession q s).alphaSel = s.alphaSel := rfl
@[simp] theorem openSession_session (q : Session) (s : State) : (openSession q s).session = q := rfl
@[simp] theorem openSession_done (q : Session) (s : State) : (openSession q s).done = s.done := rfl
@[simp] theorem openSession_err (q : Session) (s : State) : (openSession q s).err = s.err := rfl
@[simp] theorem openSession_pend (q : Session) (s : State) : (openSession q s).pend = s.pend := rfl
@[simp] theorem openSession_ieDone (q : Session) (s : State) : (openSession q s).ieDone = s.ieDone := rfl
@[simp] theorem openSession_ieErr (q : Session) (s : State) : (openSession q s).ieErr = s.ieErr := rfl
@[simp] theorem openSession_key (q : Session) (s : State) : (openSession q s).key = s.key := rfl
@[simp] theorem openSession_msgLen (q : Session) (s : State) : (openSession q s).msgLen = 0 := rfl
@[simp] theorem openSession_outLen (q : Session) (s : State) : (openSession q s).outLen = 0 := rfl
@[simp] theorem openSession_padInfo (q : Session) (s : State) : (openSession q s).padInfo = { padCnt := 0, padByte := 0, unpadSkipped := false } := rfl
@[simp] theorem openSession_iv (q : Session) (s : State) : (openSession q s).iv = s.iv := rfl
@[simp] theorem openSession_din (q : Session) (s : State) : (openSession q s).din = s.din := rfl
@[simp] theorem openSession_dout (q : Session) (s : State) : (openSession q s).dout = s.dout := rfl
@[simp] theorem openSession_chain (q : Session) (s : State) : (openSession q s).chain = s.iv := rfl
@[simp] theorem openSession_head (q : Session) (s : State) : (openSession q s).head = Vector.replicate 17 0 := rfl
@[simp] theorem openSession_rstN (q : Session) (s : State) : (openSession q s).rstN = s.rstN := rfl
@[simp] theorem openSession_inputs (q : Session) (s : State) : (openSession q s).inputs = s.inputs := rfl
@[simp] theorem openSession_reads (q : Session) (s : State) : (openSession q s).reads = s.reads := rfl
@[simp] theorem openSession_draws (q : Session) (s : State) : (openSession q s).draws = s.draws := rfl

/-! ### abortEffect -/

@[simp] theorem abortEffect_alphaSel (s : State) : (abortEffect s).alphaSel = s.alphaSel := rfl
@[simp] theorem abortEffect_session (s : State) : (abortEffect s).session = .idle := rfl
@[simp] theorem abortEffect_done (s : State) : (abortEffect s).done = s.done := rfl
@[simp] theorem abortEffect_err (s : State) : (abortEffect s).err = s.err := rfl
@[simp] theorem abortEffect_pend (s : State) : (abortEffect s).pend = s.pend := rfl
@[simp] theorem abortEffect_ieDone (s : State) : (abortEffect s).ieDone = s.ieDone := rfl
@[simp] theorem abortEffect_ieErr (s : State) : (abortEffect s).ieErr = s.ieErr := rfl
@[simp] theorem abortEffect_key (s : State) : (abortEffect s).key = s.key := rfl
@[simp] theorem abortEffect_msgLen (s : State) : (abortEffect s).msgLen = s.msgLen := rfl
@[simp] theorem abortEffect_outLen (s : State) : (abortEffect s).outLen = s.outLen := rfl
@[simp] theorem abortEffect_padInfo (s : State) : (abortEffect s).padInfo = s.padInfo := rfl
@[simp] theorem abortEffect_iv (s : State) : (abortEffect s).iv = s.iv := rfl
@[simp] theorem abortEffect_din (s : State) : (abortEffect s).din = s.din := rfl
@[simp] theorem abortEffect_dout (s : State) : (abortEffect s).dout = s.dout := rfl
@[simp] theorem abortEffect_chain (s : State) : (abortEffect s).chain = s.chain := rfl
@[simp] theorem abortEffect_head (s : State) : (abortEffect s).head = s.head := rfl
@[simp] theorem abortEffect_rstN (s : State) : (abortEffect s).rstN = s.rstN := rfl
@[simp] theorem abortEffect_inputs (s : State) : (abortEffect s).inputs = s.inputs := rfl
@[simp] theorem abortEffect_reads (s : State) : (abortEffect s).reads = s.reads := rfl
@[simp] theorem abortEffect_draws (s : State) : (abortEffect s).draws = s.draws := rfl

end Sys2Proof.Laws
end

