-- ==== Sys2Proof/Laws/Ops.lean ====
section
/-! SUPPORT. One lemma per shared operation that says all it can do; later proofs cite these and unfold nothing. -/

namespace Sys2Proof.Laws

open Sys2Proof Sys2Proof.Machine

theorem busy_eq_false_iff (s : State) : s.busy = false ↔ s.pend = none := by
  simp [State.busy]

theorem busy_eq_true_iff (s : State) : s.busy = true ↔ ∃ i, s.pend = some i := by
  simp [State.busy, Option.isSome_iff_exists]

/-- A step of command i whose completion is due is the completion (R87). -/
theorem runCommand_completes {i : Instr} {check : State → Option ErrCode} {effect : State → State} {s : State}
    (hm : s.engineMoves = true) (hp : s.pend = some i) :
    runCommand i check effect s = .next (effect s).finish.endStep := by
  simp [runCommand, hm, hp]

/-- A step of command i in the host's turn is the issue (R85). -/
theorem runCommand_issues {i : Instr} {check : State → Option ErrCode} {effect : State → State} {s : State}
    (hm : s.engineMoves = false) : runCommand i check effect s = .next (issue i (check s) s).endStep := by
  simp [runCommand, hm]

/-- With no command in flight, a step of command i is the issue (R85). -/
theorem runCommand_issues_idle {i : Instr} {check : State → Option ErrCode} {effect : State → State} {s : State}
    (hp : s.pend = none) : runCommand i check effect s = .next (issue i (check s) s).endStep := by
  simp [runCommand, hp]

/-- The step of a command is its completion or its issue, and always a next state. -/
theorem runCommand_cases (i : Instr) (check : State → Option ErrCode) (effect : State → State) (s : State) :
    (s.engineMoves = true ∧ s.pend = some i ∧ runCommand i check effect s = .next (effect s).finish.endStep) ∨
    (¬(s.engineMoves = true ∧ s.pend = some i) ∧
      runCommand i check effect s = .next (issue i (check s) s).endStep) := by
  by_cases h : s.engineMoves = true ∧ s.pend = some i
  · exact .inl ⟨h.1, h.2, by simp [runCommand, h]⟩
  · exact .inr ⟨h, by rw [runCommand, if_neg h]⟩

/-- All that an issue can do: reject with one error, or accept (R85, R206). -/
theorem issue_cases (i : Instr) (r : Option ErrCode) (s : State) :
    (s.busy = true ∧ issue i r s = recordError .busy s) ∨
    (∃ c, s.pend = none ∧ r = some c ∧ issue i r s = recordError c s) ∨
    (s.pend = none ∧ r = none ∧ issue i r s = s.accept i) := by
  cases hb : s.busy
  · rw [busy_eq_false_iff] at hb
    cases r with
    | none => exact .inr (.inr ⟨hb, rfl, by simp [issue, State.busy, hb]⟩)
    | some c => exact .inr (.inl ⟨c, hb, rfl, by simp [issue, State.busy, hb]⟩)
  · exact .inl ⟨rfl, by simp [issue, hb]⟩

/-- All that a rejected illegal word can do: record one error (R84, R85). -/
theorem issueIllegal_eq (s : State) :
    issueIllegal s = recordError (if s.busy then .busy else .illegal) s := by
  cases hb : s.busy <;> simp [issueIllegal, hb]

theorem firstFailure_eq_none (a b : Option ErrCode) : firstFailure a b = none ↔ a = none ∧ b = none := by
  cases a <;> simp [firstFailure]

theorem requireSession_eq_none (q : Session) (s : State) : requireSession q s = none ↔ s.session = q := by
  simp [requireSession]

theorem requireRoom_eq_none (s : State) : requireRoom s = none ↔ s.msgLen.toNat < 0xFFFFFFF0 := by
  unfold requireRoom State.len maxLen
  split <;> simp <;> omega

theorem requirePadByte_eq_none (np : Nat) (n : BitVec 4) (s : State) :
    requirePadByte np n s = none ↔ (s.alphaSel = true → padOffset np n < s.msgLen.toNat + n.toNat) := by
  unfold requirePadByte State.len
  split
  · rename_i h
    simpa using ⟨h.1, h.2⟩
  · rename_i h
    simpa using h

/-! ### DEC_FINAL's effect, field by field (R163) -/

@[simp] theorem decFinalEffect_session (A : List Byte) (s : State) : (decFinalEffect A s).session = .idle := by
  unfold decFinalEffect; split <;> rfl

@[simp] theorem decFinalEffect_msgLen (A : List Byte) (s : State) : (decFinalEffect A s).msgLen = s.nextLen := by
  unfold decFinalEffect; split <;> rfl

@[simp] theorem decFinalEffect_dout (A : List Byte) (s : State) : (decFinalEffect A s).dout = pack (s.chainDecrypt A) := by
  unfold decFinalEffect; split <;> rfl

@[simp] theorem decFinalEffect_chain (A : List Byte) (s : State) : (decFinalEffect A s).chain = s.din := by
  unfold decFinalEffect; split <;> rfl

@[simp] theorem decFinalEffect_alphaSel (A : List Byte) (s : State) : (decFinalEffect A s).alphaSel = s.alphaSel := by
  unfold decFinalEffect; split <;> rfl

@[simp] theorem decFinalEffect_done (A : List Byte) (s : State) : (decFinalEffect A s).done = s.done := by
  unfold decFinalEffect; split <;> rfl

@[simp] theorem decFinalEffect_pend (A : List Byte) (s : State) : (decFinalEffect A s).pend = s.pend := by
  unfold decFinalEffect; split <;> rfl

@[simp] theorem decFinalEffect_ieDone (A : List Byte) (s : State) : (decFinalEffect A s).ieDone = s.ieDone := by
  unfold decFinalEffect; split <;> rfl

@[simp] theorem decFinalEffect_ieErr (A : List Byte) (s : State) : (decFinalEffect A s).ieErr = s.ieErr := by
  unfold decFinalEffect; split <;> rfl

@[simp] theorem decFinalEffect_key (A : List Byte) (s : State) : (decFinalEffect A s).key = s.key := by
  unfold decFinalEffect; split <;> rfl

@[simp] theorem decFinalEffect_iv (A : List Byte) (s : State) : (decFinalEffect A s).iv = s.iv := by
  unfold decFinalEffect; split <;> rfl

@[simp] theorem decFinalEffect_din (A : List Byte) (s : State) : (decFinalEffect A s).din = s.din := by
  unfold decFinalEffect; split <;> rfl

@[simp] theorem decFinalEffect_head (A : List Byte) (s : State) : (decFinalEffect A s).head = s.head := by
  unfold decFinalEffect; split <;> rfl

@[simp] theorem decFinalEffect_rstN (A : List Byte) (s : State) : (decFinalEffect A s).rstN = s.rstN := by
  unfold decFinalEffect; split <;> rfl

@[simp] theorem decFinalEffect_inputs (A : List Byte) (s : State) : (decFinalEffect A s).inputs = s.inputs := by
  unfold decFinalEffect; split <;> rfl

@[simp] theorem decFinalEffect_reads (A : List Byte) (s : State) : (decFinalEffect A s).reads = s.reads := by
  unfold decFinalEffect; split <;> rfl

@[simp] theorem decFinalEffect_draws (A : List Byte) (s : State) : (decFinalEffect A s).draws = s.draws := by
  unfold decFinalEffect; split <;> rfl

/-- DEC_FINAL's report under the full alphabet: its length, and E_BAD_PAD where the count exceeds the length (R160). -/
theorem decFinalEffect_full (A : List Byte) (s : State) (ha : s.alphaSel = false) :
    (decFinalEffect A s).outLen = unpadLen s.nextLen (s.chainDecrypt A)[15] ∧
    (decFinalEffect A s).padInfo =
      { padCnt := (s.chainDecrypt A)[15], padByte := (s.chainDecrypt A)[15], unpadSkipped := false } ∧
    (decFinalEffect A s).err =
      if ((s.chainDecrypt A)[15]).toNat ≤ s.nextLen.toNat then s.err else firstError s.err .badPad := by
  simp [decFinalEffect, ha, reportUnpad]

/-- DEC_FINAL's report under the printable alphabet: no unpad (R161). -/
theorem decFinalEffect_printable (A : List Byte) (s : State) (ha : s.alphaSel = true) :
    (decFinalEffect A s).outLen = s.nextLen ∧
    (decFinalEffect A s).padInfo = { padCnt := 0, padByte := 0, unpadSkipped := true } ∧
    (decFinalEffect A s).err = s.err := by
  simp [decFinalEffect, ha]

/-- A CTRL or KEY write: dropped with E_BUSY, stored, or dropped with E_LOCKED (R22, R24, R204). -/
theorem writeUnlessLocked_cases (store : State → State) (s : State) :
    (s.busy = true ∧ writeUnlessLocked store s = recordError .busy s) ∨
    (s.pend = none ∧ s.session = .idle ∧ writeUnlessLocked store s = store s) ∨
    (s.pend = none ∧ s.session ≠ .idle ∧ writeUnlessLocked store s = recordError .locked s) := by
  cases hb : s.busy
  · by_cases h : s.session = .idle
    · exact .inr (.inl ⟨(busy_eq_false_iff s).1 hb, h, by simp [writeUnlessLocked, hb, h]⟩)
    · exact .inr (.inr ⟨(busy_eq_false_iff s).1 hb, h, by simp [writeUnlessLocked, hb, h]⟩)
  · exact .inl ⟨rfl, by simp [writeUnlessLocked, hb]⟩

/-- An IVi or DINi write: dropped with E_BUSY, or stored (R25, R30). -/
theorem writeUnlessBusy_cases (store : State → State) (s : State) :
    (s.busy = true ∧ writeUnlessBusy store s = recordError .busy s) ∨
    (s.pend = none ∧ writeUnlessBusy store s = store s) := by
  cases hb : s.busy
  · exact .inr ⟨(busy_eq_false_iff s).1 hb, by simp [writeUnlessBusy, hb]⟩
  · exact .inl ⟨rfl, by simp [writeUnlessBusy, hb]⟩

/-- All that a write to a register other than CMD can change (R61): CTRL, the flags it clears, the first error, IRQEN,
KEY, IV and DIN; never PEND, STATE or a result. -/
theorem writeReg_frame (r : Reg) (w : Word) (s : State) :
    writeReg r w s =
      { s with
        alphaSel := (writeReg r w s).alphaSel
        done := (writeReg r w s).done
        err := (writeReg r w s).err
        ieDone := (writeReg r w s).ieDone
        ieErr := (writeReg r w s).ieErr
        key := (writeReg r w s).key
        iv := (writeReg r w s).iv
        din := (writeReg r w s).din } := by
  cases r
  case ctrl | key => simp only [writeReg]; rcases writeUnlessLocked_cases _ s with ⟨_, h⟩ | ⟨_, _, h⟩ | ⟨_, _, h⟩ <;> rw [h] <;> rfl
  case iv | din => simp only [writeReg]; rcases writeUnlessBusy_cases _ s with ⟨_, h⟩ | ⟨_, h⟩ <;> rw [h] <;> rfl
  all_goals rfl

/-- While BUSY, a write changes no operand (R74): it clears flags, sets IRQEN, or records E_BUSY. -/
theorem writeReg_busy {s : State} (hb : s.busy = true) (r : Reg) (w : Word) :
    writeReg r w s =
      { s with
        done := (writeReg r w s).done
        err := (writeReg r w s).err
        ieDone := (writeReg r w s).ieDone
        ieErr := (writeReg r w s).ieErr } := by
  cases r <;> (try simp only [writeReg, writeUnlessLocked, writeUnlessBusy, hb]) <;> rfl

/-- With a session open, a write changes neither CTRL nor KEY (R22, R24). -/
theorem writeReg_locked {s : State} (hq : s.session ≠ .idle) (r : Reg) (w : Word) :
    (writeReg r w s).alphaSel = s.alphaSel ∧ (writeReg r w s).key = s.key := by
  cases r
  case ctrl | key =>
    simp only [writeReg]
    rcases writeUnlessLocked_cases _ s with ⟨_, h⟩ | ⟨_, h, _⟩ | ⟨_, _, h⟩
    · rw [h]; exact ⟨rfl, rfl⟩
    · exact absurd h hq
    · rw [h]; exact ⟨rfl, rfl⟩
  case iv | din => simp only [writeReg]; rcases writeUnlessBusy_cases _ s with ⟨_, h⟩ | ⟨_, h⟩ <;> rw [h] <;> exact ⟨rfl, rfl⟩
  all_goals exact ⟨rfl, rfl⟩

/-- What a write to a register other than CMD does to ERR: nothing, clearing it by ERRCLR, or the first error (R203, R207). -/
theorem writeReg_err (r : Reg) (w : Word) (s : State) :
    (writeReg r w s).err = s.err ∨
    (r = .status ∧ w.getLsbD 8 = true ∧ (writeReg r w s).err = .none) ∨
    ∃ c, (writeReg r w s).err = firstError s.err c := by
  cases r
  case ctrl | key =>
    simp only [writeReg]
    rcases writeUnlessLocked_cases _ s with ⟨_, h⟩ | ⟨_, _, h⟩ | ⟨_, _, h⟩ <;> rw [h]
    · exact .inr (.inr ⟨_, rfl⟩)
    · exact .inl rfl
    · exact .inr (.inr ⟨_, rfl⟩)
  case iv | din =>
    simp only [writeReg]
    rcases writeUnlessBusy_cases _ s with ⟨_, h⟩ | ⟨_, h⟩ <;> rw [h]
    · exact .inr (.inr ⟨_, rfl⟩)
    · exact .inl rfl
  case status =>
    cases h : w.getLsbD 8
    · exact .inl (by simp only [writeReg, writeStatus, errAfterWrite, h]; rfl)
    · exact .inr (.inl ⟨rfl, rfl, by simp only [writeReg, writeStatus, errAfterWrite, h]; rfl⟩)
  all_goals exact .inl rfl

/-- No write sets DONE (R86). -/
theorem writeReg_done (r : Reg) (w : Word) (s : State) :
    (writeReg r w s).done = true → s.done = true := by
  cases r
  case ctrl | key =>
    simp only [writeReg]
    rcases writeUnlessLocked_cases _ s with ⟨_, h⟩ | ⟨_, _, h⟩ | ⟨_, _, h⟩ <;> rw [h] <;> exact id
  case iv | din => simp only [writeReg]; rcases writeUnlessBusy_cases _ s with ⟨_, h⟩ | ⟨_, h⟩ <;> rw [h] <;> exact id
  case status => simp [writeReg, writeStatus, doneAfterWrite]
  all_goals exact id

/-- Recording an error keeps one that is held (R203, R208). -/
theorem firstError_of_ne {err : ErrCode} (c : ErrCode) (h : err ≠ .none) : firstError err c = err := by
  simp [firstError, h]

/-- A read changes the model's own record of reads, and nothing of the engine (R61, R67). -/
theorem busRead_sameEngine (off : BitVec 8) (s : State) : SameEngine s (busRead off s) := by
  unfold SameEngine busRead
  split
  · rfl
  · split <;> rfl

@[simp] theorem busRead_inputs (off : BitVec 8) (s : State) : (busRead off s).inputs = s.inputs := by
  unfold busRead
  split
  · rfl
  · split <;> rfl

end Sys2Proof.Laws
end

