-- ==== Sys2Proof/Laws/PerInstr.lean ====
section
/-! SUPPORT. Facts about each command as syntax, one lemma per constructor: its word carries its opcode, its NBYTES and
nothing else (spec R80, R82, R89). -/

namespace Sys2Proof.Laws

open Sys2Proof

/-- Every command is well formed: its operand's type says that it fits its field (R81). -/
theorem wellFormed_all (i : Instr) : i.wellFormed = true := by
  cases i <;> simp [Instr.wellFormed]
  omega

namespace EncodedFields

/-- The word of i holds OP in [3:0], NBYTES in [7:4], and is one the assembler writes. -/
def Statement (i : Instr) : Prop :=
  opField (encode i) = opcode i ∧ nbytesField (encode i) = nbytes i ∧ commandWordOk (encode i) = true

theorem nop : Statement .nop := by unfold Statement; decide
theorem startEnc : Statement .startEnc := by unfold Statement; decide
theorem startDec : Statement .startDec := by unfold Statement; decide
theorem encBlock : Statement .encBlock := by unfold Statement; decide
theorem encFinal (n : BitVec 4) : Statement (.encFinal n) := by unfold Statement; revert n; decide
theorem decBlock : Statement .decBlock := by unfold Statement; decide
theorem decFinal : Statement .decFinal := by unfold Statement; decide
theorem rawEnc : Statement .rawEnc := by unfold Statement; decide
theorem rawDec : Statement .rawDec := by unfold Statement; decide
theorem loadChain : Statement .loadChain := by unfold Statement; decide
theorem abort : Statement .abort := by unfold Statement; decide

end EncodedFields

end Sys2Proof.Laws
end

