-- ==== Sys2Proof/Laws/Step.lean ====
section
/-! SUPPORT. What one step can do, event by event, and how runs compose. -/

namespace Sys2Proof.Laws

open Sys2Proof Sys2Proof.Machine

/-- Every command's step is a next state: the engine has no trap (R206). -/
theorem exec_next (i : Instr) (s : State) : ∃ t, exec i s = .next t := by
  cases i <;> first
    | exact ⟨_, rfl⟩
    | (rename_i n
       rcases runCommand_cases (.encFinal n) (encFinalCheck s.alphabet n) (encFinalEffect s.alphabet n) s
         with ⟨_, _, h⟩ | ⟨_, h⟩ <;> exact ⟨_, h⟩)
    | (simp only [exec, execStartEnc, execStartDec, execEncBlock, execDecBlock, execDecFinal, execRawEnc, execRawDec,
         execLoadChain, execAbort, runCommand]
       split <;> exact ⟨_, rfl⟩)

/-- The effect of a command at its completion (R82, R87). -/
def effectOf (i : Instr) (s : State) : State :=
  match i with
  | .nop => s
  | .startEnc => startEncEffect s
  | .startDec => startDecEffect s
  | .encBlock => encBlockEffect s.alphabet s
  | .encFinal n => encFinalEffect s.alphabet n s
  | .decBlock => decBlockEffect s.alphabet s
  | .decFinal => decFinalEffect s.alphabet s
  | .rawEnc => rawEncEffect s.alphabet s
  | .rawDec => rawDecEffect s.alphabet s
  | .loadChain => loadChainEffect s
  | .abort => abortEffect s

/-- All that the step of a command other than NOP can do. -/
theorem exec_cases {i : Instr} (hi : i ≠ .nop) (s : State) :
    (s.engineMoves = true ∧ s.pend = some i ∧ exec i s = .next (effectOf i s).finish.endStep) ∨
    (¬(s.engineMoves = true ∧ s.pend = some i) ∧ exec i s = .next (issue i (legality i s) s).endStep) := by
  cases i <;> first
    | exact absurd rfl hi
    | exact runCommand_cases _ _ _ s

/-- The step of a command in the host's turn is its issue (R85). -/
theorem exec_host {i : Instr} (hi : i ≠ .nop) {s : State} (hm : s.engineMoves = false) :
    exec i s = .next (issue i (legality i s) s).endStep := by
  rcases exec_cases hi s with ⟨h, _, _⟩ | ⟨_, h⟩
  · rw [hm] at h; cases h
  · exact h

/-- The step of the command in flight in the engine's turn is its completion (R87). -/
theorem exec_engine {i : Instr} (hi : i ≠ .nop) {s : State} (hm : s.engineMoves = true) (hp : s.pend = some i) :
    exec i s = .next (effectOf i s).finish.endStep := by
  rcases exec_cases hi s with ⟨_, _, h⟩ | ⟨h, _⟩
  · exact h
  · exact absurd ⟨hm, hp⟩ h

/-- What no effect changes: IRQEN, DONE, the operands KEY, IV, DIN and CTRL, PEND, the pin, and the model's own fields. -/
theorem effectOf_frame (i : Instr) (s : State) :
    effectOf i s =
      { s with
        session := (effectOf i s).session
        err := (effectOf i s).err
        msgLen := (effectOf i s).msgLen
        outLen := (effectOf i s).outLen
        padInfo := (effectOf i s).padInfo
        dout := (effectOf i s).dout
        chain := (effectOf i s).chain
        head := (effectOf i s).head } := by
  have key : ∀ t : State, t.alphaSel = s.alphaSel → t.done = s.done → t.pend = s.pend → t.ieDone = s.ieDone →
      t.ieErr = s.ieErr → t.key = s.key → t.iv = s.iv → t.din = s.din → t.rstN = s.rstN → t.inputs = s.inputs →
      t.reads = s.reads → t.draws = s.draws →
      t = { s with
        session := t.session, err := t.err, msgLen := t.msgLen, outLen := t.outLen, padInfo := t.padInfo,
        dout := t.dout, chain := t.chain, head := t.head } := by
    rintro ⟨⟩
    rintro ⟨⟩ ⟨⟩ ⟨⟩ ⟨⟩ ⟨⟩ ⟨⟩ ⟨⟩ ⟨⟩ ⟨⟩ ⟨⟩ ⟨⟩ ⟨⟩
    rfl
  cases i
  case decFinal => apply key <;> simp [effectOf]
  all_goals exact key _ rfl rfl rfl rfl rfl rfl rfl rfl rfl rfl rfl rfl

/-- The one error an effect records is E_BAD_PAD, from DEC_FINAL under the full alphabet (R86, R160). -/
theorem effectOf_err (i : Instr) (s : State) :
    (effectOf i s).err = s.err ∨
    (i = .decFinal ∧ s.alphaSel = false ∧ (effectOf i s).err = firstError s.err .badPad) := by
  cases i
  case decFinal =>
    cases ha : s.alphaSel
    · cases hle : decide (((s.chainDecrypt s.alphabet)[15]).toNat ≤ s.nextLen.toNat)
      · exact .inr ⟨rfl, rfl, (decFinalEffect_full _ s ha).2.2.trans (if_neg (of_decide_eq_false hle))⟩
      · exact .inl ((decFinalEffect_full _ s ha).2.2.trans (if_pos (of_decide_eq_true hle)))
    · exact .inl (decFinalEffect_printable _ s ha).2.2
  all_goals exact .inl rfl

/-- The engine's turn, out of reset (R87). -/
theorem step_engine {s : State} (hr : s.rstN = true) (hm : s.engineMoves = true) :
    step s = match s.pend with
      | some i => exec i s
      | none => .next s.endStep := by
  have hf : fetch s = engineTurn s := by
    unfold State.engineMoves at hm
    unfold fetch
    split at hm <;> simp_all
  unfold step
  rw [hf, engineTurn, if_pos hr]
  cases s.pend <;> rfl

/-- A word access to the window (R61, R65). -/
theorem step_bus {s : State} {a : Access} {rest : List Event} (hi : s.inputs = .bus a :: rest) :
    step s = match fetchAccess a s with
      | .command i => exec i s
      | .answer o => o := by
  have h : fetch s = fetchAccess a s := by
    unfold fetch
    rw [hi]
  exact congrArg (fun f : Fetched => match f with
    | .command i => exec i s
    | .answer o => o) h

/-- A write of command word w to CMD, out of reset (R29, R85). -/
theorem step_cmdWrite {s : State} {w : Word} {rest : List Event} (hr : s.rstN = true)
    (hi : s.inputs = cmdWrite w :: rest) :
    step s = match decode w with
      | .ok i => exec i s
      | .error _ => .next (issueIllegal s).endStep := by
  have hc : regAt (offsetOf .cmd) = .cmd := by decide
  rw [step_bus hi]
  cases hd : decode w <;> simp [fetchAccess, fetchWrite, hr, hc, hd]

/-- A write to a register other than CMD, out of reset (R61). -/
theorem step_regWrite {s : State} {off : BitVec 8} {w : Word} {rest : List Event} (hr : s.rstN = true)
    (hc : regAt off ≠ .cmd) (hi : s.inputs = busWriteEvent off w :: rest) :
    step s = .next (writeReg (regAt off) w s).endStep := by
  rw [step_bus hi]
  simp [fetchAccess, fetchWrite, hr, hc]

/-- A read (R61). -/
theorem step_read {s : State} {off : BitVec 8} {rest : List Event} (hi : s.inputs = busReadEvent off :: rest) :
    step s = .next (busRead off s).endStep := by
  rw [step_bus hi]
  simp [fetchAccess]

/-- Each thing that one step can do. -/
inductive StepCase (s : State) : State → Prop where
  /-- The engine completes the command in flight (R87). -/
  | completes (i : Instr) (hi : i ≠ .nop) (hr : s.rstN = true) (hm : s.engineMoves = true) (hp : s.pend = some i) :
      StepCase s (effectOf i s).finish.endStep
  /-- A NOP, an access that reaches nothing, or an engine's turn with no step enabled. -/
  | idle (hc : s.completes → s.pend = some .nop) : StepCase s s.endStep
  /-- A read (R61). -/
  | read (off : BitVec 8) (hm : s.engineMoves = false) : StepCase s (busRead off s).endStep
  /-- A write to a register other than CMD (R61). -/
  | write (off : BitVec 8) (w : Word) (hr : s.rstN = true) (hm : s.engineMoves = false) (hc : regAt off ≠ .cmd)
      (hi : s.inputs.head? = some (busWriteEvent off w) ∨
        ∃ addr, s.inputs.head? = some (.busAt addr .word (.write w)) ∧ Config.windowOffset addr = some off) :
      StepCase s (writeReg (regAt off) w s).endStep
  /-- The issue of a command (R85). -/
  | issue (i : Instr) (hi : i ≠ .nop) (hr : s.rstN = true) (hm : s.engineMoves = false) :
      StepCase s (issue i (legality i s) s).endStep
  /-- A CMD write with an illegal opcode (R84). -/
  | illegal (hr : s.rstN = true) (hm : s.engineMoves = false) : StepCase s (issueIllegal s).endStep
  /-- A reset pulse (R230). -/
  | reset (hi : s.inputs.head? = some .reset) : StepCase s (resetPulse s)
  /-- rst_n goes low (R230). -/
  | rstLow (hi : s.inputs.head? = some .rstLow) : StepCase s (assertReset s)
  /-- rst_n is released (R230). -/
  | rstHigh (hi : s.inputs.head? = some .rstHigh) : StepCase s (releaseReset s)

theorem not_completes_of_host {s : State} (hm : s.engineMoves = false) : ¬ s.completes := fun h => by
  rw [h.2.1] at hm; cases hm

/-- No completion is due while an event other than the engine's turn comes first. -/
theorem not_completes_of_head {s : State} {e : Event} (hi : s.inputs.head? = some e) (he : e ≠ .engine) :
    ¬ s.completes := fun hc => by
  have hm := hc.2.1
  cases hin : s.inputs with
  | nil => rw [hin] at hi; cases hi
  | cons a l =>
    rw [hin] at hi
    obtain rfl := Option.some.inj hi
    unfold State.engineMoves at hm
    rw [hin] at hm
    cases a <;> first | exact he rfl | cases hm

/-- What a bus access can do, in the host's turn. -/
theorem stepCase_of_access {s t : State} {a : Access} (hm : s.engineMoves = false)
    (hw : ∀ w, a = { width := .word, off := a.off, op := .write w } →
      s.inputs.head? = some (busWriteEvent a.off w) ∨
        ∃ addr, s.inputs.head? = some (.busAt addr .word (.write w)) ∧ Config.windowOffset addr = some a.off)
    (h : (match fetchAccess a s with
      | .command i => exec i s
      | .answer o => o) = .next t) : StepCase s t := by
  have hidle : StepCase s s.endStep := .idle fun hc => absurd hc (not_completes_of_host hm)
  rcases a with ⟨width, off, op⟩
  unfold fetchAccess at h
  cases width with
  | byte => cases h
  | half => cases h
  | word =>
  rw [if_pos rfl] at h
  cases op with
  | read =>
    obtain rfl := Host.Outcome.next.inj h
    exact .read off hm
  | write w =>
    have hin := hw w rfl
    simp only [fetchWrite] at h
    cases hr : s.rstN <;> rw [hr] at h
    · obtain rfl := Host.Outcome.next.inj h
      exact hidle
    · by_cases hc : regAt off = .cmd
      · simp only [hc, if_true] at h
        cases hd : decode w with
        | ok i =>
          rw [hd] at h
          by_cases hi : i = .nop
          · subst hi
            obtain rfl := Host.Outcome.next.inj h
            exact hidle
          · obtain rfl := Host.Outcome.next.inj ((exec_host hi hm).symm.trans h)
            exact .issue i hi hr hm
        | error e =>
          rw [hd] at h
          obtain rfl := Host.Outcome.next.inj h
          exact .illegal hr hm
      · simp only [hc, if_true, if_false] at h
        obtain rfl := Host.Outcome.next.inj h
        exact .write off w hr hm hc hin

/-- What the engine's turn can do. -/
theorem stepCase_of_engine {s t : State} (hm : s.engineMoves = true)
    (h : (match engineTurn s with
      | .command i => exec i s
      | .answer o => o) = .next t) : StepCase s t := by
  unfold engineTurn at h
  cases hr : s.rstN <;> rw [hr] at h
  · obtain rfl := Host.Outcome.next.inj h
    exact .idle fun hc => by rw [hc.1] at hr; cases hr
  · cases hp : s.pend with
    | none =>
      rw [hp] at h
      obtain rfl := Host.Outcome.next.inj h
      refine .idle fun hc => ?_
      have := hc.2.2
      rw [State.busy, hp] at this
      cases this
    | some i =>
      rw [hp] at h
      by_cases hi : i = .nop
      · subst hi
        obtain rfl := Host.Outcome.next.inj h
        exact .idle fun _ => hp
      · obtain rfl := Host.Outcome.next.inj ((exec_engine hi hm hp).symm.trans h)
        exact .completes i hi hr hm hp

/-- All that one step can do (R16, R61, R85, R87, R230). -/
theorem step_cases {s t : State} (h : step s = .next t) : StepCase s t := by
  unfold step fetch at h
  cases hin : s.inputs with
  | nil =>
    rw [hin] at h
    exact stepCase_of_engine (by simp [State.engineMoves, hin]) h
  | cons e rest =>
    rw [hin] at h
    cases e with
    | engine => exact stepCase_of_engine (by simp [State.engineMoves, hin]) h
    | bus a =>
      refine stepCase_of_access (by simp [State.engineMoves, hin]) (fun w ha => .inl ?_) h
      rw [hin]
      exact congrArg (some ∘ Event.bus) ha
    | busAt addr width op =>
      have hm : s.engineMoves = false := by simp [State.engineMoves, hin]
      cases hoff : Config.windowOffset addr with
      | none =>
        simp only [hoff] at h
        obtain rfl := Host.Outcome.next.inj h
        exact .idle fun hc => absurd hc (not_completes_of_host hm)
      | some off =>
        simp only [hoff] at h
        refine stepCase_of_access (a := { width := width, off := off, op := op }) hm (fun w ha => .inr ⟨addr, ?_, hoff⟩) h
        injection ha with h1 _ h3
        rw [hin, h1, h3]; rfl
    | reset =>
      obtain rfl := Host.Outcome.next.inj h
      exact .reset (by rw [hin]; rfl)
    | rstLow =>
      obtain rfl := Host.Outcome.next.inj h
      exact .rstLow (by rw [hin]; rfl)
    | rstHigh =>
      obtain rfl := Host.Outcome.next.inj h
      exact .rstHigh (by rw [hin]; rfl)

/-- A run of j + k steps is a run of j steps and then of k. -/
theorem run_add {s t : State} {j : Nat} (k : Nat) (h : Sys2Proof.core.run j s = .next t) :
    Sys2Proof.core.run (j + k) s = Sys2Proof.core.run k t := by
  induction j generalizing s with
  | zero =>
    obtain rfl : s = t := Host.Outcome.next.inj h
    rw [Nat.zero_add]
  | succ j ih =>
    rw [show j + 1 + k = (j + k) + 1 by omega]
    simp only [Host.Core.run] at h ⊢
    cases hs : Sys2Proof.core.step s with
    | next u => rw [hs] at h; exact ih h
    | fault r => rw [hs] at h; cases h
    | refused r => rw [hs] at h; cases h

/-- One step of a run. -/
theorem run_succ_of_step {s t : State} (k : Nat) (h : step s = .next t) :
    Sys2Proof.core.run (k + 1) s = Sys2Proof.core.run k t := by
  have h' : Sys2Proof.core.step s = .next t := h
  simp only [Host.Core.run, h']

end Sys2Proof.Laws
end

