-- ==== Sys2Proof/Laws/Transform.lean ====
section
/-! SUPPORT. The alphabet operations are called in range only, and the byte at each position of the block operations
(spec R102, R104, R105, R108, R109, R111, R130). -/

namespace Sys2Proof.Laws

open Sys2Proof Sys2Proof.Machine

@[simp] theorem shift_getElem (b : Block) (k : Nat) (j : Nat) (h : j < 16) :
    (shift b k)[j] = b[(j + k % 16) % 16]'(Nat.mod_lt _ (by decide)) := by simp [shift]

@[simp] theorem unshift_getElem (b : Block) (k : Nat) (j : Nat) (h : j < 16) :
    (unshift b k)[j] = b[(j + 16 - k % 16) % 16]'(Nat.mod_lt _ (by decide)) := by simp [unshift]

@[simp] theorem rotateEach_getElem (A : List Byte) (b : Block) (k : Nat) (j : Nat) (h : j < 16) :
    (rotateEach A b k)[j] = rotate A b[j] k := by simp [rotateEach]

@[simp] theorem unrotateEach_getElem (A : List Byte) (b : Block) (k : Nat) (j : Nat) (h : j < 16) :
    (unrotateEach A b k)[j] = unrotate A b[j] k := by simp [unrotateEach]

@[simp] theorem merge_getElem (a b : Block) (j : Nat) (h : j < 16) : (merge a b)[j] = a[j] ^^^ b[j] := by
  simp [merge]

@[simp] theorem paddedBlock_getElem (n : BitVec 4) (pb : Byte) (d : Block) (j : Nat) (h : j < 16) :
    (paddedBlock n pb d)[j] = if j < n.toNat then d[j] else pb := by simp [paddedBlock]

@[simp] theorem captureHead_getElem (m : Nat) (p : Block) (head : Vector Byte 17) (q : Nat) (h : q < 17) :
    (captureHead m p head)[q] = if h' : m ≤ q ∧ q < m + 16 then p[q - m]'(by omega) else head[q] := by
  simp [captureHead]

/-- A byte of A has an index below N. -/
theorem indexOf_lt {A : List Byte} {b : Byte} {i : Nat} (h : indexOf A b = some i) : i < A.length := by
  unfold indexOf at h
  rw [List.idxOf?, List.findIdx?_eq_some_iff_findIdx_eq] at h
  exact h.1

/-- rotate calls byte_at in range (R102). -/
theorem rotate_index_in_range {A : List Byte} {b : Byte} {i : Nat} (k : Nat) (h : indexOf A b = some i) :
    rotateIndex A.length i k < A.length :=
  Nat.mod_lt _ (Nat.lt_of_le_of_lt (Nat.zero_le _) (indexOf_lt h))

/-- unrotate calls byte_at in range (R102): one conditional add is enough (R105). -/
theorem unrotate_index_in_range {A : List Byte} {b : Byte} {i : Nat} (k : Nat) (h : indexOf A b = some i) :
    unrotateIndex A.length i k < A.length := by
  have hi := indexOf_lt h
  have hr : k % A.length < A.length := Nat.mod_lt _ (by omega)
  simp only [unrotateIndex]
  generalize k % A.length = r at hr
  generalize A.length = n at *
  split <;> omega

theorem fullAlphabet_length : fullAlphabet.length = 256 := by simp [fullAlphabet]

theorem fullAlphabet_nodup : fullAlphabet.Nodup := by
  refine List.Nodup.map_on ?_ List.nodup_range
  intro x hx y hy h
  have := congrArg BitVec.toNat h
  simp at hx hy this
  omega

/-- The active alphabet has no duplicates (R100). -/
theorem alphabetOf_nodup (a : Bool) : (alphabetOf a).Nodup := by
  cases a
  · exact fullAlphabet_nodup
  · exact printAlpha_nodup

/-- N is in 1..256 (R116). -/
theorem one_le_alphabetOf_length (a : Bool) : 1 ≤ (alphabetOf a).length := by
  cases a
  · simp [alphabetOf, fullAlphabet_length]
  · exact one_le_printAlpha_length

end Sys2Proof.Laws
end

