-- ==== Sys2Proof/Tests/Slice0.lean ====
section
/-! SUPPORT. The model's own tests. Expected values are the spec's worked examples (rule named at each) or hand
calculation from its tables; each witness shows values that meet all hypotheses of the statement it is named after. -/

namespace Sys2Proof.Tests

open Sys2Proof Sys2Proof.Machine

-- One theorem after another: many at once need more memory than the check allows.
set_option Elab.async false

/-- The state a step ends in; the reset state where it stops. -/
def after (o : Host.Outcome State Fault Refusal) : State :=
  match o with
  | .next t => t
  | .fault _ => State.reset
  | .refused _ => State.reset

/-- Whether an outcome is a next state. -/
def isNext (o : Host.Outcome State Fault Refusal) : Bool :=
  match o with
  | .next _ => true
  | .fault _ => false
  | .refused _ => false

theorem next_after {o : Host.Outcome State Fault Refusal} (h : isNext o = true) : o = .next (after o) := by
  cases o <;> first | rfl | cases h

/-- After reset, with these events to come. -/
def fresh (es : List Event) : State := { State.reset with inputs := es }

/-- After reset, but with command i in flight. -/
def inFlight (i : Instr) (es : List Event) : State := { State.reset with pend := some i, inputs := es }

/-- "0123456789ABCDEF", the IV of the spec's examples. -/
def ivText : Block :=
  #v[0x30, 0x31, 0x32, 0x33, 0x34, 0x35, 0x36, 0x37, 0x38, 0x39, 0x41, 0x42, 0x43, 0x44, 0x45, 0x46]

/-- "The quick brown " (R132). -/
def quickBrown : Block :=
  #v[0x54, 0x68, 0x65, 0x20, 0x71, 0x75, 0x69, 0x63, 0x6B, 0x20, 0x62, 0x72, 0x6F, 0x77, 0x6E, 0x20]

/-- The ciphertext of `quickBrown` (R132). -/
def quickCipher : Block :=
  #v[0x40, 0x38, 0x73, 0x71, 0x66, 0x64, 0x20, 0x52, 0x4D, 0x6C, 0x61, 0x60, 0x26, 0x30, 0x3D, 0x39]

/-- "Hello, World!" and three bytes that are never read (R162). -/
def hello : Block :=
  #v[0x48, 0x65, 0x6C, 0x6C, 0x6F, 0x2C, 0x20, 0x57, 0x6F, 0x72, 0x6C, 0x64, 0x21, 0xAA, 0xBB, 0xCC]

/-- The ciphertext of `hello` with n = 13 (R162). -/
def helloCipher : Block :=
  #v[0x54, 0x53, 0x52, 0x85, 0x61, 0x6B, 0x6C, 0x68, 0x26, 0x23, 0x6D, 0x64, 0x58, 0x3A, 0x33, 0x6F]

/-- The engine of the examples: KEY = 13, FULL, CHAIN = IV = "0123456789ABCDEF", command i about to complete. -/
def example13 (q : Session) (i : Instr) (d : Block) : State :=
  { State.reset with
    session := q
    key := 13
    iv := pack ivText
    chain := pack ivText
    din := pack d
    pend := some i }

/-! ### WellFormed: each check refuses an ill-formed term -/

theorem test_printableOk_refuses_empty : printableOk [] = false := by decide
theorem test_printableOk_refuses_duplicate : printableOk [0x61, 0x62, 0x61] = false := by decide
theorem test_printableOk_refuses_256_bytes : printableOk fullAlphabet = false := by decide +kernel
theorem test_printableOk_accepts_one_byte : printableOk [0x61] = true := by decide
theorem test_commandWordOk_refuses_reserved_bits : commandWordOk 0xFFFFFF03 = false := by decide
theorem test_commandWordOk_refuses_op_11 : commandWordOk 0x0000000B = false := by decide
theorem test_commandWordOk_refuses_stray_nbytes : commandWordOk 0x00000013 = false := by decide
theorem test_wellFormed_accepts_largest_n : Instr.wellFormed (.encFinal 15) = true := by decide
theorem test_admitted_refuses_halfword :
    Event.admitted (.bus { width := .half, off := 0x10, op := .read }) = false := by decide
theorem test_hostMayDecrypt_refuses_17_bytes : hostMayDecrypt (List.replicate 17 0) = false := by decide
theorem test_hostMayDecrypt_refuses_empty : hostMayDecrypt [] = false := by decide

/-! ### Decode: a word written out from the encoding of R80 and R82 for every constructor -/

theorem test_decode_nop : decode 0b00000000000000000000000000000000 = .ok .nop := by decide
theorem test_decode_startEnc : decode 0b00000000000000000000000000000001 = .ok .startEnc := by decide
theorem test_decode_startDec : decode 0b00000000000000000000000000000010 = .ok .startDec := by decide
theorem test_decode_encBlock : decode 0b00000000000000000000000000000011 = .ok .encBlock := by decide
theorem test_decode_encFinal : decode 0b00000000000000000000000011010100 = .ok (.encFinal 13) := by decide
theorem test_decode_decBlock : decode 0b00000000000000000000000000000101 = .ok .decBlock := by decide
theorem test_decode_decFinal : decode 0b00000000000000000000000000000110 = .ok .decFinal := by decide
theorem test_decode_rawEnc : decode 0b00000000000000000000000000000111 = .ok .rawEnc := by decide
theorem test_decode_rawDec : decode 0b00000000000000000000000000001000 = .ok .rawDec := by decide
theorem test_decode_loadChain : decode 0b00000000000000000000000000001001 = .ok .loadChain := by decide
theorem test_decode_abort : decode 0b00000000000000000000000000001010 = .ok .abort := by decide
theorem test_decode_ignores_reserved_bits : decode 0xFFFFFF03 = .ok .encBlock := by decide
theorem test_decode_rejects_op_15 : decode 0x0000001F = .error (.illegalOp 15) := by decide
theorem test_decodeTableWord_drops_high_bits : decodeTableWord 8 0x1D4 = some (.encFinal 13) := by decide

/-! ### One step of each command -/

/-- The example of R182: the write leaves every register unchanged, even while BUSY. -/
theorem test_nop_while_busy : step (inFlight .rawEnc [cmdWrite 0x00000000]) = .next (inFlight .rawEnc []) := rfl

/-- The example of R183: CHAIN0, MSGLEN and STATUS after the completion. -/
theorem test_startEnc :
    let t := after (exec .startEnc (example13 .idle .startEnc hello))
    t.chain[0] = 0x33323130 ∧ t.msgLen = 0 ∧ t.statusWord = 0x0000000A := by decide +kernel

/-- R181: START_ENC in ENC is rejected with E_SEQ. -/
theorem test_startEnc_in_session :
    (after (step { fresh [cmdWrite 0x00000001] with session := .enc })).statusWord = 0x00000032 := by decide +kernel

/-- The example of R184. -/
theorem test_startDec : (after (exec .startDec (inFlight .startDec []))).statusWord = 0x0000000C := by decide +kernel

/-- The example of R132. -/
theorem test_encBlock :
    let t := after (exec .encBlock (example13 .enc .encBlock quickBrown))
    t.dout = pack quickCipher ∧ t.chain = pack quickCipher ∧ t.msgLen = 16 ∧ t.head[15] = 0x20 ∧ t.head[16] = 0 := by
  decide +kernel

/-- R85: MSGLEN = 0xFFFFFFF0 is rejected with E_LEN, 0xFFFFFFE0 is not. -/
theorem test_encBlock_room :
    (after (exec .encBlock { fresh [cmdWrite 3] with session := .enc, msgLen := 0xFFFFFFF0 })).err = .len ∧
    (after (exec .encBlock { fresh [cmdWrite 3] with session := .enc, msgLen := 0xFFFFFFE0 })).pend = some .encBlock := by
  decide +kernel

/-- The example of R162. -/
theorem test_encFinal :
    let t := after (exec (.encFinal 13) (example13 .enc (.encFinal 13) hello))
    t.dout = pack helloCipher ∧ t.msgLen = 16 ∧ t.outLen = 16 ∧ t.padInfo.word = 0x00000303 ∧ t.session = .idle := by
  decide +kernel

/-- R162's corner case n = 0: a whole block of padding, PADCNT = PADBYTE = 0x10. -/
theorem test_encFinal_empty :
    (after (exec (.encFinal 0) (example13 .enc (.encFinal 0) hello))).padInfo.word = 0x00001010 := by decide +kernel

/-- The example of R133. -/
theorem test_decBlock :
    let t := after (exec .decBlock (example13 .dec .decBlock quickCipher))
    t.dout = pack quickBrown ∧ t.chain = pack quickCipher ∧ t.msgLen = 16 ∧ t.session = .dec := by decide +kernel

/-- The example of R163. -/
theorem test_decFinal :
    let t := after (exec .decFinal (example13 .dec .decFinal helloCipher))
    blk t.dout = (((hello.set 13 0x03).set 14 0x03).set 15 0x03) ∧ t.padInfo.word = 0x00000303 ∧ t.outLen = 13 ∧
    t.session = .idle := by decide +kernel

/-- The row P[15] = 17, T = 16 of R163's corner cases; KEY = 0 and CHAIN = 0 make DOUT = DIN. -/
theorem test_decFinal_bad_pad :
    let t := after (exec .decFinal { inFlight .decFinal [] with
      session := .dec, din := pack (Vector.replicate 16 17) })
    t.outLen = 0 ∧ t.err = .badPad ∧ t.done = true ∧ t.session = .idle := by decide +kernel

/-- The example of R113. -/
theorem test_rawEnc :
    (after (exec .rawEnc (example13 .idle .rawEnc ivText))).dout[0] = 0x3D535251 := by decide +kernel

/-- The example of R114. -/
theorem test_rawDec :
    (after (exec .rawDec (example13 .idle .rawDec
      #v[0x51, 0x52, 0x53, 0x3D, 0x3E, 0x3F, 0x40, 0x41, 0x42, 0x43, 0x44, 0x45, 0x46, 0x4E, 0x4F, 0x50]))).dout =
      pack ivText := by decide +kernel

/-- The example of R134. -/
theorem test_loadChain :
    (after (exec .loadChain { inFlight .loadChain [] with iv := pack ivText })).chain[0] = 0x33323130 := by
  decide +kernel

/-- R185: ABORT from ENC leaves IDLE, and DONE. -/
theorem test_abort : (after (exec .abort { inFlight .abort [] with session := .enc })).statusWord = 0x00000008 := by
  decide +kernel

/-- R185: ABORT is rejected while BUSY. -/
theorem test_abort_while_busy :
    (after (step (inFlight .rawEnc [cmdWrite 0x0000000A]))).statusWord = 0x00000021 := by decide +kernel

/-- R65: a narrow access is refused. -/
theorem test_narrow_access_is_refused :
    step (fresh [.bus { width := .byte, off := 0x08, op := .read }]) = .refused .narrowAccess := rfl

/-- `withFetchWord` places a command that the next step issues. -/
theorem test_withFetchWord :
    (after (step (State.reset.withFetchWord 32 0x00000007))).pend = some .rawEnc := by decide +kernel

/-! ### Witnesses: for each statement with hypotheses, values that meet them -/

/-- A legal state with RAW_ENC in flight, whatever comes next. -/
theorem inv_inFlight (es : List Event) : Inv (inFlight .rawEnc es) where
  aligned := show (0 : Nat) % 16 = 0 from rfl
  bounded := show (0 : Nat) ≤ 0xFFFFFFF0 by decide
  pending := by
    rintro i h
    obtain rfl := Option.some.inj h
    exact ⟨by decide, rfl⟩
  outLen_le := Nat.le_refl _
  head_clear := by
    intro p _
    show (Vector.replicate 17 (0 : Byte))[p] = 0
    simp
  skipped := fun h => by cases h
  held := fun h => by cases h

theorem witness_DecodeEncodeAgree :
    Instr.wellFormed (.encFinal 15) = true ∧ commandWordOk 0x000000F4 = true ∧ commandWordOk 0x0000000A = true := by
  decide

theorem witness_DecoderReadsOnlyOpAndNbytes :
    ((0x100000D3 : Word).extractLsb' 0 4 = (0x000000E3 : Word).extractLsb' 0 4 ∧
      (0x100000D3 : Word).extractLsb' 0 4 ≠ 4#4) ∧
    ((0x100000D4 : Word).extractLsb' 0 4 = (0x000000D4 : Word).extractLsb' 0 4 ∧
      (0x100000D4 : Word).extractLsb' 4 4 = (0x000000D4 : Word).extractLsb' 4 4) := by decide

theorem witness_OpcodeDecidesTheCommand :
    (opField 0x0000000A).toNat ≤ 10 ∧ 11 ≤ (opField 0x0000000B).toNat := by decide

theorem witness_StepRunsTheDecodedCommand :
    ((fresh [cmdWrite 0x000000D4]).rstN = true ∧
      (fresh [cmdWrite 0x000000D4]).inputs = .bus { width := .word, off := 0x10, op := .write 0x000000D4 } :: [] ∧
      regAt 0x10 = .cmd ∧ decode 0x000000D4 = .ok (.encFinal 13)) ∧
    ((inFlight .rawEnc []).rstN = true ∧ (inFlight .rawEnc []).engineMoves = true ∧
      (inFlight .rawEnc []).pend = some .rawEnc) := by decide

theorem witness_CmdWriteIssuesInOrder :
    (fresh [cmdWrite 0x00000003]).rstN = true ∧
    (fresh [cmdWrite 0x00000003]).inputs = cmdWrite 0x00000003 :: [] := by decide

theorem witness_RejectedCommandChangesOnlyErr :
    let s := fresh [cmdWrite 0x00000003]
    let u := { fresh [cmdWrite 0x00000003] with err := .illegal }
    (s.rstN = true ∧ s.inputs = cmdWrite 0x00000003 :: [] ∧ ∃ t, step s = .next t ∧ t.pend = s.pend) ∧
    (u.rstN = true ∧ u.inputs = cmdWrite 0x00000003 :: [] ∧ u.err ≠ .none ∧
      ∃ t, step u = .next t ∧ t.pend = u.pend) :=
  ⟨⟨rfl, rfl, _, next_after (by decide +kernel), (by decide +kernel)⟩, ⟨rfl, rfl, by decide, _, next_after (by decide +kernel), (by decide +kernel)⟩⟩

theorem witness_LegalCommandRunsToCompletion :
    let s := fresh [cmdWrite (encode .startEnc), .engine]
    Instr.startEnc ≠ .nop ∧ s.rstN = true ∧ s.pend = none ∧ legality .startEnc s = none ∧
      s.inputs = cmdWrite (encode .startEnc) :: .engine :: [] := by decide

theorem witness_NopHasNoEffect : (0xFFFFFFF0 : Word).extractLsb' 0 4 = 0#4 := by decide

theorem witness_SessionOpens :
    ((inFlight .startEnc []).engineMoves = true ∧ (inFlight .startEnc []).pend = some .startEnc) ∧
    ((inFlight .startDec [.engine]).engineMoves = true ∧ (inFlight .startDec [.engine]).pend = some .startDec) := by
  decide

theorem witness_EncBlockCompletes :
    (example13 .enc .encBlock quickBrown).engineMoves = true ∧
    (example13 .enc .encBlock quickBrown).pend = some .encBlock := by decide

theorem witness_EncFinalFullCompletes :
    (example13 .enc (.encFinal 13) hello).engineMoves = true ∧
    (example13 .enc (.encFinal 13) hello).pend = some (.encFinal 13) ∧
    (example13 .enc (.encFinal 13) hello).alphaSel = false := by decide

/-- The first clause: a session of 32 bytes, all 0, holds every offset up to 16 in HEAD. -/
theorem witness_EncFinalTextCompletes_head :
    let s := { inFlight (.encFinal 0) [] with session := .enc, alphaSel := true, msgLen := 32 }
    s.engineMoves = true ∧ s.pend = some (.encFinal 0) ∧ s.alphaSel = true ∧
    ∀ o, o = (16 - (0 : BitVec 4).toNat) % Config.printAlpha.length →
      o < s.msgLen.toNat ∧ s.head[o]? = some 0 := by
  refine ⟨rfl, rfl, rfl, ?_⟩
  rintro o rfl
  have h : (16 - (0 : BitVec 4).toNat) % Config.printAlpha.length ≤ 16 := Nat.mod_le _ _
  refine ⟨show _ < 32 by omega, ?_⟩
  show (Vector.replicate 17 (0 : Byte))[_]? = some 0
  rw [Vector.getElem?_replicate, if_pos (by omega)]

/-- The second clause: a text of 15 bytes, all 0, holds its offset, at most 1, in DIN. -/
theorem witness_EncFinalTextCompletes_din :
    let s := { inFlight (.encFinal 15) [] with session := .enc, alphaSel := true }
    s.engineMoves = true ∧ s.pend = some (.encFinal 15) ∧ s.alphaSel = true ∧
    ∀ o, o = (16 - (15 : BitVec 4).toNat) % Config.printAlpha.length →
      s.msgLen.toNat ≤ o ∧ o < s.msgLen.toNat + (15 : BitVec 4).toNat ∧
      (blk s.din)[o - s.msgLen.toNat]? = some 0 := by
  refine ⟨rfl, rfl, rfl, ?_⟩
  rintro o rfl
  have h : (16 - (15 : BitVec 4).toNat) % Config.printAlpha.length ≤ 1 := Nat.mod_le _ _
  generalize (16 - (15 : BitVec 4).toNat) % Config.printAlpha.length = o at h
  interval_cases o <;> decide

theorem witness_DecBlockCompletes :
    (example13 .dec .decBlock quickCipher).engineMoves = true ∧
    (example13 .dec .decBlock quickCipher).pend = some .decBlock := by decide

theorem witness_DecFinalCompletes :
    (example13 .dec .decFinal helloCipher).engineMoves = true ∧
    (example13 .dec .decFinal helloCipher).pend = some .decFinal ∧
    (inFlight .decFinal []).engineMoves = true ∧ ({ inFlight .decFinal [] with alphaSel := true }).alphaSel = true := by
  decide

theorem witness_RawCommandsComplete :
    (inFlight .rawEnc []).engineMoves = true ∧ (inFlight .rawEnc []).pend = some .rawEnc ∧
    (inFlight .rawDec []).engineMoves = true ∧ (inFlight .rawDec []).pend = some .rawDec := by decide

theorem witness_LoadChainAndAbortComplete :
    (inFlight .loadChain []).engineMoves = true ∧ (inFlight .loadChain []).pend = some .loadChain ∧
    (inFlight .abort []).engineMoves = true ∧ (inFlight .abort []).pend = some .abort := by decide

theorem witness_EncFinalIgnoresDinTail :
    let s := example13 .enc (.encFinal 13) hello
    let d := pack (hello.set 13 0x55)
    s.engineMoves = true ∧ s.pend = some (.encFinal 13) ∧ legality (.encFinal 13) s = none ∧ d ≠ s.din ∧
    (∀ j : Fin 16, j.val < (13 : BitVec 4).toNat → (blk d)[j] = (blk s.din)[j]) := by decide +kernel

theorem witness_EncFinalIgnoresDinTail_next :
    ∃ t, exec (.encFinal 13) (example13 .enc (.encFinal 13) hello) = .next t := ⟨_, next_after (by decide +kernel)⟩

theorem witness_HeadHoldsTheFirst17Bytes :
    [quickBrown, hello].length ≤ 0x0FFFFFFF ∧ 16 * 0x0FFFFFFF = 0xFFFFFFF0 := by decide

theorem witness_StatusWriteClearsDoneAndErr :
    (fresh [busWriteEvent 0x0B 0x00000108]).rstN = true ∧ regAt 0x0B = .status ∧
    (fresh [busWriteEvent 0x0B 0x00000108]).inputs = busWriteEvent 0x0B 0x00000108 :: [] := by decide

theorem witness_CtrlAndKeyWritesAreLocked :
    (fresh [busWriteEvent 0x04 1]).rstN = true ∧ (fresh [busWriteEvent 0x04 1]).inputs = busWriteEvent 0x04 1 :: [] ∧
    regAt 0x04 = .ctrl ∧ regAt 0x14 = .key := by decide

theorem witness_IvAndDinWrites :
    (inFlight .rawEnc [busWriteEvent 0x3C 7]).busy = true ∧
    (inFlight .rawEnc [busWriteEvent 0x3C 7]).inputs = busWriteEvent 0x3C 7 :: [] ∧
    (fresh [busWriteEvent 0x30 7]).busy = false ∧ (fresh [busWriteEvent 0x30 7]).rstN = true ∧
    (fresh [busWriteEvent 0x30 7]).inputs = busWriteEvent 0x30 7 :: [] ∧
    regAt 0x30 = .iv 0 ∧ regAt 0x3C = .iv 3 ∧ regAt 0x40 = .din 0 ∧ regAt 0x4C = .din 3 := by decide

theorem witness_IrqenAndIgnoredWrites :
    (fresh [busWriteEvent 0x0C 3]).rstN = true ∧ (fresh [busWriteEvent 0x0C 3]).inputs = busWriteEvent 0x0C 3 :: [] ∧
    regAt 0x0C = .irqen ∧ regAt 0x00 = .cap ∧ regAt 0x24 = .reserved ∧ regAt 0x2C = .reserved ∧
    regAt 0x70 = .reserved ∧ regAt 0xFF = .reserved ∧ (regAt 0x18).isResult = true ∧
    (regAt 0x6C).isResult = true := by decide

/-- The reserved words at both ends of both ranges (R20). -/
theorem witness_RegisterMap :
    (0x24 ≤ (0x24 : BitVec 8).toNat ∧ (0x2F : BitVec 8).toNat < 0x30) ∧ 0x70 ≤ (0x70 : BitVec 8).toNat ∧
    0x70 ≤ (0xFF : BitVec 8).toNat := by decide

theorem witness_WidthAndAlignment :
    (0x33 : BitVec 8).toNat / 4 = (0x30 : BitVec 8).toNat / 4 ∧
    (fresh [busWriteEvent 0x33 7]).inputs = busWriteEvent 0x33 7 :: [] ∧
    ({ width := .half, off := 0, op := .read } : Access).width ≠ .word ∧ Width.byte ≠ .word ∧
    (fresh [.busAt (Config.engineBase + 255) .byte .read]).inputs =
      .busAt (Config.engineBase + (0xFF : BitVec 8).toNat) .byte .read :: [] :=
  ⟨by decide, rfl, by decide, by decide, rfl⟩

theorem witness_ReadReturnsTheRegister :
    ((fresh [busReadEvent 0x50]).rstN = true ∧ (fresh [busReadEvent 0x50]).inputs = busReadEvent 0x50 :: [] ∧
      (fresh [busReadEvent 0x50]).busy = false) ∧
    ((inFlight .rawEnc [busReadEvent 0x08]).busy = true ∧ (regAt 0x08).isResult = false) := by decide

theorem witness_BusyResultReadsAreFree :
    let s := inFlight .rawEnc [busReadEvent 0x50]
    let t := { inFlight .abort [busReadEvent 0x50] with
      dout := pack hello, chain := pack hello, msgLen := 16, outLen := 3, key := 13, din := pack quickBrown,
      iv := pack ivText, alphaSel := true, head := Vector.replicate 17 7 }
    s.rstN = true ∧ t.rstN = true ∧ s.busy = true ∧ t.busy = true ∧ (regAt 0x50).isResult = true ∧
    s.inputs = busReadEvent 0x50 :: [] ∧ t.inputs = s.inputs ∧ t.reads = s.reads ∧ t.draws = s.draws ∧
    (∃ s', step s = .next s') ∧ ∃ t', step t = .next t' :=
  ⟨rfl, rfl, rfl, rfl, rfl, rfl, rfl, rfl, rfl, ⟨_, next_after (by decide +kernel)⟩,
    ⟨_, next_after (by decide +kernel)⟩⟩

theorem witness_PlatformAddressSelectsTheWindow :
    (fresh [.busAt (Config.engineBase + 255) .word .read]).inputs =
      .busAt (Config.engineBase + (0xFF : BitVec 8).toNat) .word .read :: [] ∧
    (fresh [.busAt (Config.engineBase + 256) .word .read]).inputs =
      .busAt (Config.engineBase + 256) .word .read :: [] := ⟨rfl, rfl⟩

/-- Below the window, at its last address. ENGINE_BASE is open, and at 0 no address lies below it. -/
theorem witness_PlatformAddressSelectsTheWindow_below (h : 0 < Config.engineBase) :
    Config.engineBase - 1 < Config.engineBase ∧
    (fresh [.busAt (Config.engineBase - 1) .word .read]).inputs =
      .busAt (Config.engineBase - 1) .word .read :: [] := ⟨by omega, rfl⟩

theorem witness_FirstErrorIsKept :
    let s := { fresh [busWriteEvent 0x08 0x00000100] with err := .seq }
    let u := { fresh [.reset] with err := .seq }
    (s.err ≠ .none ∧ ∃ t, step s = .next t ∧ t.err ≠ s.err) ∧ (u.err ≠ .none ∧ ∃ t, step u = .next t ∧ t.err ≠ u.err) :=
  ⟨⟨by decide, _, next_after (by decide +kernel), by decide +kernel⟩, ⟨by decide, _, next_after (by decide +kernel), by decide +kernel⟩⟩

theorem witness_OnlyCompletionSetsDone :
    let s := { inFlight .decFinal [] with session := .dec, din := pack (Vector.replicate 16 17) }
    s.rstN = true ∧ s.engineMoves = true ∧ s.busy = true ∧ s.done = false ∧
    (after (step s)).done = true ∧ (after (step s)).err ≠ s.err := by decide +kernel

theorem witness_OnlyCompletionSetsDone_next :
    ∃ t, step { inFlight .decFinal [] with session := .dec, din := pack (Vector.replicate 16 17) } = .next t :=
  ⟨_, next_after (by decide +kernel)⟩

theorem witness_SessionFollowsTheTable :
    (Inv (inFlight .rawEnc []) ∧ (inFlight .rawEnc []).completes ∧ ∃ t, step (inFlight .rawEnc []) = .next t) ∧
    (Inv (inFlight .rawEnc [.reset]) ∧ ¬ (inFlight .rawEnc [.reset]).completes ∧
      ∃ t, step (inFlight .rawEnc [.reset]) = .next t) :=
  ⟨⟨inv_inFlight _, ⟨rfl, rfl, rfl⟩, _, next_after (by decide +kernel)⟩,
    ⟨inv_inFlight _, fun h => Bool.noConfusion h.2.1, _, next_after (by decide +kernel)⟩⟩

theorem witness_OperandsFrozenWhileBusy :
    (inFlight .rawEnc [busWriteEvent 0x40 7]).busy = true ∧
    ∃ t, step (inFlight .rawEnc [busWriteEvent 0x40 7]) = .next t ∧ t.busy = true := ⟨rfl, _, next_after (by decide +kernel), (by decide +kernel)⟩

theorem witness_InterruptRaisedAndAcknowledged :
    (Inv (inFlight .rawEnc []) ∧ (inFlight .rawEnc []).completes) ∧
    (∃ t, step { fresh [busWriteEvent 0x08 0x00000108] with done := true, ieDone := true } = .next t) :=
  ⟨⟨inv_inFlight _, rfl, rfl, rfl⟩, _, next_after (by decide +kernel)⟩

/-- The same state with IE_DONE set is legal too. -/
theorem witness_InterruptRaisedAndAcknowledged_enabled :
    let s := { inFlight .rawEnc [] with ieDone := true }
    Inv s ∧ s.completes ∧ s.ieDone = true ∧ ∃ t, step s = .next t :=
  ⟨{ inv_inFlight [] with held := fun h => Bool.noConfusion h }, ⟨rfl, rfl, rfl⟩, rfl, _, next_after (by decide +kernel)⟩

theorem witness_DoneSetBeatsSameCycleClear :
    let s := inFlight .rawEnc [busWriteEvent 0x08 0x00000008, .engine]
    Inv s ∧ s.rstN = true ∧ s.busy = true ∧ s.inputs = busWriteEvent 0x08 0x00000008 :: .engine :: [] :=
  ⟨inv_inFlight _, rfl, rfl, rfl⟩

theorem witness_ResetEvents :
    (inFlight .rawEnc [.reset]).inputs = .reset :: [] ∧ (fresh [.rstLow]).inputs = .rstLow :: [] ∧
    (fresh [.rstHigh]).inputs = .rstHigh :: [] ∧
    ({ fresh [busWriteEvent 0x14 7] with rstN := false }).rstN = false ∧
    ({ fresh [busReadEvent 0x00] with rstN := false }).inputs = busReadEvent 0x00 :: [] := by decide

theorem witness_EveryStepKeepsTheInvariant :
    Inv (inFlight .rawEnc [.engine]) ∧ ∃ t, step (inFlight .rawEnc [.engine]) = .next t :=
  ⟨inv_inFlight _, _, next_after (by decide +kernel)⟩

theorem witness_ReachableStatesAreLegal :
    ∃ t, Sys2Proof.core.run 2 { State.reset with inputs := [cmdWrite 0x00000001, .engine] } = .next t ∧
      t.session = .enc := ⟨_, next_after (by decide +kernel), (by decide +kernel)⟩

theorem witness_OnlyNarrowAccessesStop :
    ∀ e, (fresh [cmdWrite 0x00000003]).inputs.head? = some e → e.admitted = true := by
  intro e h
  obtain rfl := Option.some.inj h
  rfl

theorem witness_BusyEndsInFiniteTime :
    let s := inFlight .rawEnc [busReadEvent 0x08, .engine]
    Inv s ∧ s.busy = true ∧ s.inputs.all Event.admitted = true := ⟨inv_inFlight _, rfl, rfl⟩

theorem witness_CompletionTimeDoesNotMatter :
    let s := inFlight .rawEnc []
    s.rstN = true ∧ Inv s ∧ s.busy = true ∧
    (∃ t, Sys2Proof.core.run 1 { s with inputs := [.engine] } = .next t) ∧
    ∃ u, Sys2Proof.core.run 2 { s with inputs := [0x08].map busReadEvent ++ [.engine] } = .next u :=
  ⟨rfl, inv_inFlight _, rfl, ⟨_, next_after (by decide +kernel)⟩, ⟨_, next_after (by decide +kernel)⟩⟩

theorem witness_AlphabetLookup :
    [0x61, 0x62].Nodup ∧ indexOf [0x61, 0x62] 0x62 = some 1 ∧ indexOf [0x61, 0x62] 0x63 = none := by decide

theorem witness_SubstitutionLaws :
    ([0x61, 0x62, 0x63] : List Byte).Nodup ∧ 1 ≤ ([0x61, 0x62, 0x63] : List Byte).length ∧
    (0x64 : Byte) ∉ ([0x61, 0x62, 0x63] : List Byte) ∧ 1 % 3 = 4 % 3 ∧ ([0x61] : List Byte).length = 1 := by decide

theorem witness_PermutationLaws : 13 % 16 = 29 % 16 := by decide

theorem witness_BlockTransformLaws :
    ([0x61, 0x62, 0x63] : List Byte).Nodup ∧ 1 ≤ ([0x61, 0x62, 0x63] : List Byte).length ∧
    1 % 3 = 49 % 3 ∧ 1 % 16 = 49 % 16 ∧ 1 % Nat.lcm 3 16 = 49 % Nat.lcm 3 16 ∧ 1 % 256 = 257 % 256 := by decide

theorem witness_CbcRecurrences :
    [hello, quickBrown][1]? = some quickBrown ∧
    (∃ prev, (ivText :: cbcEncrypt fullAlphabet 13 ivText [hello, quickBrown])[1]? = some prev) ∧
    (ivText :: [hello, quickBrown])[1]? = some hello := ⟨rfl, ⟨_, rfl⟩, rfl⟩

theorem witness_CbcErrorPropagation : (0 : Nat) ≠ 1 ∧ (0 : Nat) ≠ 1 + 1 ∧ (3 : Nat) ≠ 1 ∧ (3 : Nat) ≠ 1 + 1 := by decide

theorem witness_PaddingLengthInvariant :
    padText false [] [0x61] = some (0x61 :: List.replicate 15 0x0F) ∧
    padText true [0x61] [0x62] = some (0x62 :: List.replicate 15 0x62) := by decide

/-- R154, at the boundaries: lengths 8, 9, 16 and 17 under an alphabet of 94 bytes. -/
theorem witness_PadRangeRejectsShortTexts :
    let s := { fresh [] with alphaSel := true }
    let u := { fresh [] with alphaSel := true, msgLen := 16 }
    (s.alphaSel = true ∧ s.msgLen.toNat % 16 = 0 ∧ u.msgLen.toNat % 16 = 0) ∧
    requirePadByte 94 8 s = some .padRange ∧ requirePadByte 94 9 s = none ∧
    requirePadByte 94 0 u = some .padRange ∧ requirePadByte 94 1 u = none := by decide +kernel

/-- A text of 31 zero bytes holds the offset 1 mod N_P of its pad byte, whatever N_P is. -/
theorem padText_31 (A : List Byte) :
    padText true A (List.replicate 31 0) = some (List.replicate 32 0) := by
  have h : (16 - (List.replicate 31 (0 : Byte)).length % 16) % A.length ≤ 1 := Nat.mod_le _ _
  unfold padText
  rw [if_pos rfl]
  generalize (16 - (List.replicate 31 (0 : Byte)).length % 16) % A.length = o at h
  interval_cases o <;> rfl

theorem witness_MessageRoundTrip :
    (∃ c, encryptText false fullAlphabet 13 ivText [0x61] = some c) ∧
    ∃ c, encryptText true Config.printAlpha 13 ivText (List.replicate 31 0) = some c := by
  refine ⟨⟨_, rfl⟩, ?_⟩
  unfold encryptText
  rw [padText_31]
  exact ⟨_, rfl⟩

theorem witness_EncryptPipeline :
    let s := fresh (expandAll (encryptProgram false 13 ivText id hello [0x61]))
    s.rstN = true ∧ s.pend = none ∧ s.session = .idle ∧ [0x61].length < 0xFFFFFFF0 ∧
    (∃ c, encryptText false (alphabetOf false) (13 : Word).toNat ivText [0x61] = some c) ∧
    s.inputs = expandAll (encryptProgram false 13 ivText id hello [0x61]) ++ [] :=
  ⟨rfl, rfl, rfl, by decide, ⟨_, rfl⟩, (List.append_nil _).symm⟩

/-- The same under the printable alphabet. -/
theorem witness_EncryptPipeline_text :
    (List.replicate 31 (0 : Byte)).length < 0xFFFFFFF0 ∧
    ∃ c, encryptText true (alphabetOf true) (13 : Word).toNat ivText (List.replicate 31 0) = some c := by
  refine ⟨by decide, ?_⟩
  unfold encryptText
  rw [padText_31]
  exact ⟨_, rfl⟩

theorem witness_DecryptPipeline :
    let c := helloCipher.toList
    let s := fresh (expandAll (decryptProgram false 13 ivText id c))
    s.rstN = true ∧ s.pend = none ∧ s.session = .idle ∧ hostMayDecrypt c = true ∧ c.length ≤ 0xFFFFFFF0 ∧
    s.inputs = expandAll (decryptProgram false 13 ivText id c) ++ [] :=
  ⟨rfl, rfl, rfl, by decide, by decide, (List.append_nil _).symm⟩

/-- Both outcomes of the source's decrypt: "Hello, World!" (R163), and a pad count of 17 in 16 bytes (key 0, IV 0). -/
theorem witness_DecryptPipeline_text :
    decryptText fullAlphabet 13 ivText helloCipher.toList = some (hello.toList.take 13) ∧
    decryptText fullAlphabet 0 (Vector.replicate 16 0) (List.replicate 16 17) = none := by decide +kernel

theorem witness_AnyOrderDecryption :
    let s := { fresh (expandAll [.wrblk .iv ivText, .cmd .loadChain, .wait 1, .wrblk .din helloCipher,
      .cmd .decBlock, .wait 2]) with session := .dec }
    s.rstN = true ∧ s.pend = none ∧ s.session = .dec ∧ s.msgLen.toNat < 0xFFFFFFF0 := by decide

end Sys2Proof.Tests
end

