-- ==== Sys2Proof/Proofs/Scope.lean ====
section
/-! What one step comes to when a command is due: its issue by a CMD write, or its completion in the engine's turn
(spec R16, R85, R87). -/

namespace Sys2Proof.Proofs

open Sys2Proof Sys2Proof.Machine Sys2Proof.Laws

/-- Out of reset, a whole-word write to CMD, at any offset that reaches it, comes to the command its word names (R29). -/
theorem fetchAccess_cmd_of_decode {s : State} {off : BitVec 8} {w : Word} {i : Instr} (hr : s.rstN = true)
    (hc : regAt off = .cmd) (hd : decode w = .ok i) :
    fetchAccess { width := .word, off := off, op := .write w } s = .command i := by
  simp [fetchAccess, fetchWrite, hr, hc, hd]

/-- The step of a CMD write is the step of its command (R85); `Laws.step_cmdWrite` at every offset that reaches CMD. -/
theorem step_cmd_of_decode {s : State} {off : BitVec 8} {w : Word} {rest : List Event} {i : Instr}
    (hr : s.rstN = true) (hi : s.inputs = .bus { width := .word, off := off, op := .write w } :: rest)
    (hc : regAt off = .cmd) (hd : decode w = .ok i) : step s = exec i s := by
  rw [step_bus hi, fetchAccess_cmd_of_decode hr hc hd]

/-- The engine's turn with a command in flight is the step of that command (R87). -/
theorem step_engine_of_pend {s : State} {i : Instr} (hr : s.rstN = true) (hm : s.engineMoves = true)
    (hp : s.pend = some i) : step s = exec i s := by
  rw [step_engine hr hm, hp]

/-- Settles O5: a CMD write by the access it makes, the engine's turn by the command in flight. -/
theorem stepRunsTheDecodedCommand : Obligations.StepRunsTheDecodedCommand := by
  unfold Obligations.StepRunsTheDecodedCommand
  constructor
  · intro s off w rest i hr hi hc hd
    exact ⟨wellFormed_all i, step_cmd_of_decode hr hi hc hd⟩
  · intro s i hr hm hp
    exact step_engine_of_pend hr hm hp

end Sys2Proof.Proofs
end

