-- ==== Sys2Proof/Proofs/State.lean ====
section
/-! The engine's state (spec 10_state.md R20 to R42): the legal states and that every step keeps them, HEAD, the words
that reads return, and the register writes. -/

namespace Sys2Proof.Proofs

open Sys2Proof Sys2Proof.Machine Sys2Proof.Laws

/-! ### What legality and the invariant look at -/

theorem requireSession_congr (q : Session) {s t : State} (hq : t.session = s.session) :
    requireSession q t = requireSession q s := by simp [requireSession, hq]

theorem requireRoom_congr {s t : State} (hm : t.msgLen = s.msgLen) : requireRoom t = requireRoom s := by
  unfold requireRoom State.len
  rw [hm]

theorem requirePadByte_congr (np : Nat) (n : BitVec 4) {s t : State} (hm : t.msgLen = s.msgLen)
    (ha : t.alphaSel = s.alphaSel) : requirePadByte np n t = requirePadByte np n s := by
  unfold requirePadByte State.len
  rw [hm, ha]

/-- A command's own checks read STATE, MSGLEN and CTRL.ALPHA_SEL, and nothing else (R85). -/
theorem legality_congr (i : Instr) {s t : State} (hq : t.session = s.session) (hm : t.msgLen = s.msgLen)
    (ha : t.alphaSel = s.alphaSel) : legality i t = legality i s := by
  cases i with
  | nop | rawEnc | rawDec | loadChain | abort => rfl
  | startEnc | startDec => exact requireSession_congr _ hq
  | encBlock | decBlock | decFinal => exact congrArg₂ firstFailure (requireSession_congr _ hq) (requireRoom_congr hm)
  | encFinal n =>
    have hpad : requirePadByte t.alphabet.length n t = requirePadByte s.alphabet.length n s := by
      rw [State.alphabet, ha]
      exact requirePadByte_congr _ n hm ha
    exact congrArg₂ firstFailure (requireSession_congr _ hq) (congrArg₂ firstFailure (requireRoom_congr hm) hpad)

/-- The clauses of `Inv` that speak of MSGLEN, OUTLEN, HEAD and PADINFO alone: what a completion has to keep. -/
structure ResultsLegal (s : State) : Prop where
  aligned : s.msgLen.toNat % 16 = 0
  bounded : s.msgLen.toNat ≤ 0xFFFFFFF0
  outLen_le : s.outLen.toNat ≤ s.msgLen.toNat
  head_clear : ∀ p : Fin 17, s.msgLen.toNat ≤ p.val → s.head[p] = 0
  skipped : s.padInfo.unpadSkipped = true → s.padInfo.padCnt = 0 ∧ s.padInfo.padByte = 0

theorem resultsLegal_of_inv {s : State} (h : Inv s) : ResultsLegal s :=
  ⟨h.aligned, h.bounded, h.outLen_le, h.head_clear, h.skipped⟩

/-- Out of reset, a state is legal when its results are and its command in flight is. -/
theorem inv_of_resultsLegal {s : State} (h : ResultsLegal s) (hr : s.rstN = true)
    (hp : ∀ i, s.pend = some i → i ≠ .nop ∧ legality i s = none) : Inv s :=
  { aligned := h.aligned, bounded := h.bounded, pending := hp, outLen_le := h.outLen_le, head_clear := h.head_clear,
    skipped := h.skipped, held := fun hl => by rw [hr] at hl; cases hl }

/-- The clause of `Inv` on the command in flight looks at PEND and at what the command's checks read. -/
theorem pending_congr {s t : State} (h : Inv s) (hp : t.pend = s.pend) (hq : t.session = s.session)
    (hm : t.msgLen = s.msgLen) (ha : ∀ i, s.pend = some i → t.alphaSel = s.alphaSel) (i : Instr)
    (hi : t.pend = some i) : i ≠ .nop ∧ legality i t = none := by
  rw [hp] at hi
  obtain ⟨hnop, hl⟩ := h.pending i hi
  exact ⟨hnop, (legality_congr i hq hm (ha i hi)).trans hl⟩

theorem ResultsLegal.congr {s t : State} (h : ResultsLegal s) (hm : t.msgLen = s.msgLen) (ho : t.outLen = s.outLen)
    (hh : t.head = s.head) (hi : t.padInfo = s.padInfo) : ResultsLegal t := by
  constructor <;> simp only [hm, ho, hh, hi]
  exacts [h.aligned, h.bounded, h.outLen_le, h.head_clear, h.skipped]

theorem sameEngine_endStep (s : State) : SameEngine s s.endStep := rfl

theorem sameEngine_trans {s t u : State} (hst : SameEngine s t) (htu : SameEngine t u) : SameEngine s u := by
  unfold SameEngine at *
  rw [htu, hst]

/-- The invariant does not look at the model's own fields. -/
theorem inv_of_sameEngine {s t : State} (h : Inv s) (he : SameEngine s t) : Inv t := by
  have hheld : s.rstN = false → SameEngine { State.reset with rstN := false } t := fun hl =>
    sameEngine_trans (h.held hl) he
  unfold SameEngine at he
  rw [he] at hheld ⊢
  exact { h with pending := pending_congr h rfl rfl rfl fun _ _ => rfl, held := hheld }

/-- Recording an error keeps a state out of reset legal: the invariant does not look at ERR there. -/
theorem inv_recordError {s : State} (h : Inv s) (hr : s.rstN = true) (c : ErrCode) : Inv (recordError c s) :=
  inv_of_resultsLegal ((resultsLegal_of_inv h).congr rfl rfl rfl rfl) hr (pending_congr h rfl rfl rfl fun _ _ => rfl)

/-! ### What a completion does to MSGLEN, OUTLEN, HEAD and PADINFO -/

/-- What a legal block command needs of MSGLEN: room for another block, so that MSGLEN + 16 does not wrap (R33, R116). -/
theorem nextLen_toNat {s : State} (h : s.msgLen.toNat < 0xFFFFFFF0) : s.nextLen.toNat = s.msgLen.toNat + 16 := by
  have h16 : (16 : Word).toNat = 16 := rfl
  rw [State.nextLen, BitVec.toNat_add, h16]
  omega

/-- MSGLEN + 16 of a legal state with room is again a legal MSGLEN, because MSGLEN counts whole blocks (R33). -/
theorem nextLen_bounded {s : State} (h : ResultsLegal s) (hroom : s.msgLen.toNat < 0xFFFFFFF0) :
    s.nextLen.toNat % 16 = 0 ∧ s.nextLen.toNat ≤ 0xFFFFFFF0 := by
  have ha := h.aligned
  rw [nextLen_toNat hroom]
  omega

/-- ENC_FINAL passes its checks only with room for another block (R85). -/
theorem room_of_encFinalCheck {q : Session} {s : State} {rest : Option ErrCode}
    (h : firstFailure (requireSession q s) (firstFailure (requireRoom s) rest) = none) :
    s.msgLen.toNat < 0xFFFFFFF0 :=
  (requireRoom_eq_none s).1 ((firstFailure_eq_none _ _).1 ((firstFailure_eq_none _ _).1 h).2).1

/-- The other block commands pass theirs only with room for another block (R85). -/
theorem room_of_blockCheck {q : Session} {s : State} (h : firstFailure (requireSession q s) (requireRoom s) = none) :
    s.msgLen.toNat < 0xFFFFFFF0 :=
  (requireRoom_eq_none s).1 ((firstFailure_eq_none _ _).1 h).2

/-- The reported length of an unpad never exceeds the total (R34, R160). -/
theorem unpadLen_le (T : Word) (last : Byte) : (unpadLen T last).toNat ≤ T.toNat := by
  unfold unpadLen
  split
  · next h =>
    have hw : (last.setWidth 32).toNat = last.toNat := by simp; omega
    rw [BitVec.toNat_sub_of_le (by rw [BitVec.le_def, hw]; exact h)]
    exact Nat.sub_le _ _
  · exact Nat.zero_le _

theorem openSession_resultsLegal (q : Session) (s : State) : ResultsLegal (openSession q s) where
  aligned := rfl
  bounded := by simp
  outLen_le := by simp
  head_clear := by simp
  skipped := by simp

theorem encBlockEffect_resultsLegal {s : State} (A : List Byte) (h : ResultsLegal s)
    (hroom : s.msgLen.toNat < 0xFFFFFFF0) : ResultsLegal (encBlockEffect A s) where
  aligned := (nextLen_bounded h hroom).1
  bounded := (nextLen_bounded h hroom).2
  outLen_le := by
    have := h.outLen_le
    simp only [encBlockEffect_outLen, encBlockEffect_msgLen, nextLen_toNat hroom]
    omega
  head_clear p hp := by
    rw [encBlockEffect_msgLen, nextLen_toNat hroom] at hp
    have hout : ¬ (s.len ≤ p.val ∧ p.val < s.len + 16) := by unfold State.len; omega
    simpa [encBlockEffect, hout] using h.head_clear p (by omega)
  skipped := h.skipped

/-- The block commands that leave HEAD alone: MSGLEN moves on by a block, and OUTLEN stays within it. -/
theorem resultsLegal_of_nextLen {s t : State} (h : ResultsLegal s) (hroom : s.msgLen.toNat < 0xFFFFFFF0)
    (hm : t.msgLen = s.nextLen) (hh : t.head = s.head) (ho : t.outLen.toNat ≤ s.nextLen.toNat)
    (hi : t.padInfo.unpadSkipped = true → t.padInfo.padCnt = 0 ∧ t.padInfo.padByte = 0) : ResultsLegal t where
  aligned := by rw [hm]; exact (nextLen_bounded h hroom).1
  bounded := by rw [hm]; exact (nextLen_bounded h hroom).2
  outLen_le := by rw [hm]; exact ho
  head_clear p hp := by
    rw [hm, nextLen_toNat hroom] at hp
    rw [hh]
    exact h.head_clear p (by omega)
  skipped := hi

theorem encFinalEffect_resultsLegal {s : State} (A : List Byte) (n : BitVec 4) (h : ResultsLegal s)
    (hroom : s.msgLen.toNat < 0xFFFFFFF0) : ResultsLegal (encFinalEffect A n s) :=
  resultsLegal_of_nextLen h hroom rfl rfl (le_refl _) (by simp [encFinalEffect])

theorem decBlockEffect_resultsLegal {s : State} (A : List Byte) (h : ResultsLegal s)
    (hroom : s.msgLen.toNat < 0xFFFFFFF0) : ResultsLegal (decBlockEffect A s) :=
  resultsLegal_of_nextLen h hroom rfl rfl (by
    have := h.outLen_le
    rw [decBlockEffect_outLen, nextLen_toNat hroom]
    omega) h.skipped

/-- DEC_FINAL reports an unpadded length within the total, or skips the unpad and reports no pad (R160, R161). -/
theorem decFinalEffect_resultsLegal {s : State} (A : List Byte) (h : ResultsLegal s)
    (hroom : s.msgLen.toNat < 0xFFFFFFF0) : ResultsLegal (decFinalEffect A s) := by
  cases ha : s.alphaSel
  case false =>
    obtain ⟨ho, hi, _⟩ := decFinalEffect_full A s ha
    exact resultsLegal_of_nextLen h hroom (by simp) (by simp) (by rw [ho]; exact unpadLen_le _ _) (by simp [hi])
  case true =>
    obtain ⟨ho, hi, _⟩ := decFinalEffect_printable A s ha
    exact resultsLegal_of_nextLen h hroom (by simp) (by simp) (by rw [ho]) (by simp [hi])

/-- The effect of every command that is legal keeps MSGLEN, OUTLEN, HEAD and PADINFO legal. -/
theorem effectOf_resultsLegal {i : Instr} {s : State} (h : ResultsLegal s) (hl : legality i s = none) :
    ResultsLegal (effectOf i s) := by
  cases i with
  | startEnc => exact openSession_resultsLegal .enc s
  | startDec => exact openSession_resultsLegal .dec s
  | encBlock => exact encBlockEffect_resultsLegal _ h (room_of_blockCheck hl)
  | encFinal n => exact encFinalEffect_resultsLegal _ n h (room_of_encFinalCheck hl)
  | decBlock => exact decBlockEffect_resultsLegal _ h (room_of_blockCheck hl)
  | decFinal => exact decFinalEffect_resultsLegal _ h (room_of_blockCheck hl)
  | nop | rawEnc | rawDec | loadChain | abort => exact h.congr rfl rfl rfl rfl

theorem effectOf_rstN (i : Instr) (s : State) : (effectOf i s).rstN = s.rstN := by
  rw [effectOf_frame]

/-! ### Every step keeps the invariant -/

theorem inv_completion {i : Instr} {s : State} (h : Inv s) (hr : s.rstN = true) (hp : s.pend = some i) :
    Inv (effectOf i s).finish := by
  obtain ⟨_, hl⟩ := h.pending i hp
  refine inv_of_resultsLegal ((effectOf_resultsLegal (resultsLegal_of_inv h) hl).congr rfl rfl rfl rfl) ?_ ?_
  · rw [finish_rstN, effectOf_rstN, hr]
  · intro j hj
    rw [finish_pend] at hj
    cases hj

/-- A write keeps a legal state legal: with a command in flight it changes nothing that the command's checks read (R74). -/
theorem inv_writeReg {s : State} (h : Inv s) (hr : s.rstN = true) (r : Reg) (w : Word) : Inv (writeReg r w s) := by
  have hframe := writeReg_frame r w s
  refine inv_of_resultsLegal
    ((resultsLegal_of_inv h).congr (by rw [hframe]) (by rw [hframe]) (by rw [hframe]) (by rw [hframe]))
    (by rw [hframe, hr])
    (pending_congr h (by rw [hframe]) (by rw [hframe]) (by rw [hframe]) fun i hp => ?_)
  rw [writeReg_busy ((busy_eq_true_iff s).2 ⟨i, hp⟩) r w]

/-- An issue keeps a legal state legal: what it accepts has just passed its checks (R85). -/
theorem inv_issue {i : Instr} {s : State} (h : Inv s) (hi : i ≠ .nop) (hr : s.rstN = true) :
    Inv (issue i (legality i s) s) := by
  rcases issue_cases i (legality i s) s with ⟨_, he⟩ | ⟨c, _, _, he⟩ | ⟨_, hl, he⟩
  · rw [he]; exact inv_recordError h hr _
  · rw [he]; exact inv_recordError h hr c
  · rw [he]
    refine inv_of_resultsLegal ((resultsLegal_of_inv h).congr rfl rfl rfl rfl) hr fun j hj => ?_
    obtain rfl : i = j := Option.some.inj hj
    exact ⟨hi, (legality_congr i rfl rfl rfl).trans hl⟩

/-- A state with R41's values in every register is legal, with the pin high or low. -/
theorem inv_reset_pin (pin : Bool) : Inv { State.reset with rstN := pin } where
  aligned := rfl
  bounded := Nat.zero_le _
  pending i hp := by cases hp
  outLen_le := Nat.zero_le _
  head_clear p _ := by simp [State.reset]
  skipped hs := by cases hs
  held hl := by obtain rfl : pin = false := hl; rfl

/-- Settles O39, with the pin high. -/
theorem resetIsLegal : Obligations.ResetIsLegal := inv_reset_pin true

theorem inv_releaseReset {s : State} (h : Inv s) : Inv (releaseReset s) :=
  inv_of_resultsLegal ((resultsLegal_of_inv h).congr rfl rfl rfl rfl) rfl (pending_congr h rfl rfl rfl fun _ _ => rfl)

/-- Settles O40: one lemma per thing that a step can do. -/
theorem everyStepKeepsTheInvariant : Obligations.EveryStepKeepsTheInvariant := by
  unfold Obligations.EveryStepKeepsTheInvariant
  intro s t h hs
  have hend : ∀ {u : State}, Inv u → Inv u.endStep := fun hu => inv_of_sameEngine hu (sameEngine_endStep _)
  cases step_cases hs with
  | completes i _ hr _ hp => exact hend (inv_completion h hr hp)
  | idle => exact hend h
  | read off => exact hend (inv_of_sameEngine h (busRead_sameEngine off s))
  | write off w hr => exact hend (inv_writeReg h hr _ w)
  | issue i hi hr => exact hend (inv_issue h hi hr)
  | illegal hr => rw [issueIllegal_eq]; exact hend (inv_recordError h hr _)
  | reset => exact inv_of_sameEngine (inv_reset_pin true) rfl
  | rstLow => exact inv_of_sameEngine (inv_reset_pin false) rfl
  | rstHigh => exact inv_releaseReset h

/-! ### Bit fields of words -/

/-- Two fields put together: the upper one shifted past the lower one adds up, when both fit. -/
theorem toNat_shiftLeft_or (hi lo : Word) (k : Nat) (hhi : hi.toNat * 2 ^ k < 2 ^ 32) (hlo : lo.toNat < 2 ^ k) :
    ((hi <<< k) ||| lo).toNat = hi.toNat * 2 ^ k + lo.toNat := by
  rw [BitVec.toNat_or, BitVec.toNat_shiftLeft, Nat.shiftLeft_eq, Nat.mod_eq_of_lt hhi, ← Nat.shiftLeft_eq,
    ← Nat.shiftLeft_add_eq_or_of_lt hlo, Nat.shiftLeft_eq]

@[simp] theorem bit_toNat (b : Bool) : (bit b).toNat = b.toNat := by cases b <;> rfl

theorem session_code_toNat_le (q : Session) : q.code.toNat ≤ 2 := by cases q <;> decide

theorem errCode_code_toNat_le (c : ErrCode) : c.code.toNat ≤ 7 := by cases c <;> decide

/-- A narrow field keeps its number in a word. -/
theorem toNat_setWidth_word {n : Nat} (x : BitVec n) (h : x.toNat < 2 ^ 32) : (x.setWidth 32).toNat = x.toNat := by
  rw [BitVec.toNat_setWidth, Nat.mod_eq_of_lt h]

/-- STATUS by its fields: ERR in [7:4], DONE in [3], STATE in [2:1], BUSY in [0] (R26). -/
theorem statusWord_toNat (s : State) :
    s.statusWord.toNat = s.err.code.toNat * 16 + s.done.toNat * 8 + s.session.code.toNat * 2 + s.busy.toNat := by
  have he := errCode_code_toNat_le s.err
  have hq := session_code_toNat_le s.session
  have hd := s.done.toNat_lt
  have hb := s.busy.toNat_lt
  have hec := toNat_setWidth_word s.err.code (by omega)
  have hqc := toNat_setWidth_word s.session.code (by omega)
  have hlow : ((s.session.code.setWidth 32 <<< 1) ||| bit s.busy).toNat = s.session.code.toNat * 2 + s.busy.toNat := by
    rw [toNat_shiftLeft_or _ _ 1 (by omega) (by rw [bit_toNat]; omega), hqc, bit_toNat, Nat.pow_one]
  have hmid : ((bit s.done <<< 3) ||| ((s.session.code.setWidth 32 <<< 1) ||| bit s.busy)).toNat =
      s.done.toNat * 8 + (s.session.code.toNat * 2 + s.busy.toNat) := by
    rw [toNat_shiftLeft_or _ _ 3 (by rw [bit_toNat]; omega) (by omega), hlow, bit_toNat]
    rfl
  rw [State.statusWord, BitVec.or_assoc, BitVec.or_assoc, toNat_shiftLeft_or _ _ 4 (by omega) (by omega), hmid, hec]
  omega

/-- IRQEN by its fields: IE_ERR in [1], IE_DONE in [0] (R28). -/
theorem irqenWord_toNat (s : State) : s.irqenWord.toNat = s.ieErr.toNat * 2 + s.ieDone.toNat := by
  have he := s.ieErr.toNat_lt
  have hd := s.ieDone.toNat_lt
  rw [State.irqenWord, toNat_shiftLeft_or _ _ 1 (by rw [bit_toNat]; omega) (by rw [bit_toNat]; omega)]
  simp

/-- PADINFO by its fields: UNPAD_SKIPPED in [16], PADBYTE in [15:8], PADCNT in [7:0] (R35). -/
theorem padInfoWord_toNat (p : PadInfo) :
    p.word.toNat = p.unpadSkipped.toNat * 65536 + p.padByte.toNat * 256 + p.padCnt.toNat := by
  have hs := p.unpadSkipped.toNat_lt
  have hb := p.padByte.isLt
  have hc := p.padCnt.isLt
  have hbw := toNat_setWidth_word p.padByte (by omega)
  have hcw := toNat_setWidth_word p.padCnt (by omega)
  have hlow : ((p.padByte.setWidth 32 <<< 8) ||| p.padCnt.setWidth 32).toNat =
      p.padByte.toNat * 256 + p.padCnt.toNat := by
    rw [toNat_shiftLeft_or _ _ 8 (by omega) (by omega), hbw, hcw]
    rfl
  rw [PadInfo.word, BitVec.or_assoc, toNat_shiftLeft_or _ _ 16 (by rw [bit_toNat]; omega) (by omega), hlow, bit_toNat]
  omega

/-- CAP by its fields: N_P in [15:8], BLOCK_BYTES = 16 in [7:0] (R23). -/
theorem capWord_toNat {np : Nat} (h : np ≤ 255) : (capWord np).toNat = np * 256 + 16 := by
  have hn : (BitVec.ofNat 8 np).toNat = np := by rw [BitVec.toNat_ofNat]; omega
  have hnw := toNat_setWidth_word (BitVec.ofNat 8 np) (by omega)
  rw [capWord, toNat_shiftLeft_or _ _ 8 (by omega) (by decide), hnw, hn]
  rfl

/-- Settles O28: each word by the places of its fields. -/
theorem readableWordFields : Obligations.ReadableWordFields := by
  unfold Obligations.ReadableWordFields
  refine ⟨⟨rfl, rfl, rfl⟩, ⟨rfl, rfl, rfl, rfl, rfl, rfl, rfl, rfl⟩, fun s => ?_⟩
  exact ⟨statusWord_toNat s, bit_toNat s.alphaSel, irqenWord_toNat s, padInfoWord_toNat s.padInfo,
    capWord_toNat printAlpha_length_le, one_le_printAlpha_length, printAlpha_length_le, rfl, rfl⟩

/-! ### Reset values and the interrupt output -/

/-- Settles O38: the registers by their definition, CAP by its fields. -/
theorem resetValues : Obligations.ResetValues := by
  unfold Obligations.ResetValues
  refine ⟨rfl, rfl, rfl, rfl, rfl, rfl, rfl, rfl, rfl, rfl, rfl, fun i => ?_, fun p => ?_, rfl, rfl, ?_⟩
  · simp [State.reset]
  · simp [State.reset]
  · rw [Nat.add_comm]
    exact capWord_toNat printAlpha_length_le

/-- Only NONE has the code 0 (R200). -/
theorem errCode_code_eq_zero_iff (c : ErrCode) : c.code = 0 ↔ c = .none := by cases c <;> decide

/-- Settles O34: ERR reads 0 exactly when it is NONE. -/
theorem interruptOutput : Obligations.InterruptOutput := by
  unfold Obligations.InterruptOutput
  intro s
  simp only [State.irq, ne_eq, errCode_code_eq_zero_iff, Bool.or_eq_true, Bool.and_eq_true, decide_eq_true_eq]

/-! ### DONE and ERR at a completion -/

/-- An issue leaves DONE as it was (R85). -/
theorem issue_done (i : Instr) (r : Option ErrCode) (s : State) : (issue i r s).done = s.done := by
  rcases issue_cases i r s with ⟨_, h⟩ | ⟨_, _, _, h⟩ | ⟨_, _, h⟩ <;> rw [h] <;> rfl

/-- Settles O31: DONE by what each step can do, ERR by what the command's effect can record. -/
theorem onlyCompletionSetsDone : Obligations.OnlyCompletionSetsDone := by
  unfold Obligations.OnlyCompletionSetsDone
  intro s t hs
  have hnever : s.done = false → ∀ {u : State}, (u.done = true → s.done = true) → u.done = true → s.completes :=
    fun hd _ hu ht => by rw [hu ht] at hd; cases hd
  have hhost : s.engineMoves = false → ∀ {P : Prop}, s.completes → P :=
    fun hm _ hc => absurd hc (not_completes_of_host hm)
  have hreset : ∀ {e : Event}, s.inputs.head? = some e → e ≠ .engine → ∀ {P : Prop}, s.completes → P :=
    fun hi he _ hc => absurd hc (not_completes_of_head hi he)
  cases step_cases hs with
  | completes i _ hr hm hp =>
    refine ⟨fun _ _ => ⟨hr, hm, (busy_eq_true_iff s).2 ⟨i, hp⟩⟩, fun _ hne => ?_⟩
    rw [endStep_err, finish_err] at hne ⊢
    rcases effectOf_err i s with he | ⟨rfl, ha, he⟩
    · exact absurd he hne
    · by_cases hnone : s.err = .none
      · exact ⟨hp, ha, hnone, by rw [he, hnone]; rfl⟩
      · exact absurd (he.trans (firstError_of_ne _ hnone)) hne
  | idle => exact ⟨fun hd => hnever hd id, fun _ hne => absurd rfl hne⟩
  | read off hm =>
    have hdone : (busRead off s).done = s.done := by rw [busRead_sameEngine off s]
    exact ⟨fun hd => hnever hd fun h => hdone ▸ h, hhost hm⟩
  | write off w _ hm => exact ⟨fun hd => hnever hd (writeReg_done _ w s), hhost hm⟩
  | issue i _ _ hm => exact ⟨fun hd => hnever hd fun h => issue_done i _ s ▸ h, hhost hm⟩
  | illegal _ hm => exact ⟨fun hd => hnever hd fun h => by rwa [issueIllegal_eq] at h, hhost hm⟩
  | reset hi => exact ⟨fun hd => hnever hd fun h => (by cases h), hreset hi (by decide)⟩
  | rstLow hi => exact ⟨fun hd => hnever hd fun h => (by cases h), hreset hi (by decide)⟩
  | rstHigh hi => exact ⟨fun hd => hnever hd id, hreset hi (by decide)⟩

/-! ### Every run from reset -/

/-- What every step keeps, every run keeps. -/
theorem run_keeps {P : State → Prop} (hstep : ∀ s t, P s → step s = .next t → P t) {k : Nat} {s t : State}
    (hs : P s) (hrun : Sys2Proof.core.run k s = .next t) : P t := by
  induction k generalizing s with
  | zero =>
    obtain rfl : s = t := Host.Outcome.next.inj hrun
    exact hs
  | succ k ih =>
    cases hst : step s with
    | next u => exact ih (hstep s u hs hst) (by rwa [run_succ_of_step k hst] at hrun)
    | fault r => cases r
    | refused r =>
      have hst' : Sys2Proof.core.step s = .refused r := hst
      simp only [Host.Core.run, hst'] at hrun
      cases hrun

/-- Bit 0 of STATUS is BUSY (R26). -/
theorem statusWord_bit_zero (s : State) : s.statusWord.getLsbD 0 = s.busy := by
  simp [State.statusWord, bit]

/-- Every command but NOP has an opcode of 1 to 10 (R82). -/
theorem opcode_range {i : Instr} (hi : i ≠ .nop) : 1 ≤ (opcode i).toNat ∧ (opcode i).toNat ≤ 10 := by
  cases i with
  | nop => exact absurd rfl hi
  | encFinal n => exact show 1 ≤ 4 ∧ 4 ≤ 10 by decide
  | _ => decide

/-- Settles O41: the invariant holds at reset and every step keeps it. -/
theorem reachableStatesAreLegal : Obligations.ReachableStatesAreLegal := by
  unfold Obligations.ReachableStatesAreLegal
  intro es k t hrun
  have hstart : Inv { State.reset with inputs := es } := inv_of_sameEngine resetIsLegal rfl
  have h : Inv t := run_keeps everyStepKeepsTheInvariant hstart hrun
  refine ⟨⟨h.aligned, h.bounded⟩, ?_, ?_, errCode_code_toNat_le t.err⟩
  · cases t.session <;> decide
  · rw [statusWord_bit_zero, busy_eq_true_iff]
    constructor
    · rintro ⟨i, hp⟩
      exact ⟨i, hp, opcode_range (h.pending i hp).1⟩
    · rintro ⟨i, hp, _⟩
      exact ⟨i, hp⟩

/-! ### Register writes and the register map -/

/-- A write to a register other than CMD, out of reset, ends with the events that follow it (R61). -/
theorem step_writeReg {s : State} {off : BitVec 8} {w : Word} {rest : List Event} (hr : s.rstN = true)
    (hc : regAt off ≠ .cmd) (hi : s.inputs = busWriteEvent off w :: rest) :
    step s = .next { writeReg (regAt off) w s with inputs := rest } := by
  have hin : (writeReg (regAt off) w s).inputs.tail = rest := by rw [writeReg_frame, hi]; rfl
  rw [step_regWrite hr hc hi, State.endStep, hin]

/-- Settles O20: STATUS has no lock, so the step is `writeStatus`. -/
theorem statusWriteClearsDoneAndErr : Obligations.StatusWriteClearsDoneAndErr := by
  unfold Obligations.StatusWriteClearsDoneAndErr
  intro s off w rest hr hreg hi
  rw [step_writeReg hr (by simp [hreg]) hi, hreg]
  rfl

/-- What a dropped write leaves: ERR with the error recorded, and the rest as it was (R203). -/
theorem recordError_inputs_eq (c : ErrCode) (s : State) (rest : List Event) :
    { recordError c s with inputs := rest } =
      { s with err := if s.err = .none then c else s.err, inputs := rest } := rfl

/-- The step of a write that an open session locks: dropped with E_BUSY, dropped with E_LOCKED, or stored (R204). -/
theorem step_lockedWrite {s : State} {off : BitVec 8} {w : Word} {rest : List Event} {store : State → State}
    (hr : s.rstN = true) (hc : regAt off ≠ .cmd) (hi : s.inputs = busWriteEvent off w :: rest)
    (hw : writeReg (regAt off) w s = writeUnlessLocked store s) :
    step s = .next (
      if s.busy then { s with err := if s.err = .none then .busy else s.err, inputs := rest }
      else if s.session ≠ .idle then { s with err := if s.err = .none then .locked else s.err, inputs := rest }
      else { store s with inputs := rest }) := by
  rw [step_writeReg hr hc hi, hw]
  rcases writeUnlessLocked_cases store s with ⟨hb, h⟩ | ⟨hp, hq, h⟩ | ⟨hp, hq, h⟩
  · rw [h, if_pos hb, recordError_inputs_eq]
  · rw [h, if_neg (by simp [State.busy, hp]), if_neg (not_not_intro hq)]
  · rw [h, if_neg (by simp [State.busy, hp]), if_pos hq, recordError_inputs_eq]

/-- Settles O21: CTRL and KEY are the two registers that an open session locks. -/
theorem ctrlAndKeyWritesAreLocked : Obligations.CtrlAndKeyWritesAreLocked := by
  unfold Obligations.CtrlAndKeyWritesAreLocked
  intro s off w rest hr hi hreg
  rcases hreg with hreg | hreg
  · rw [if_pos hreg]
    exact step_lockedWrite hr (by simp [hreg]) hi (by rw [hreg]; rfl)
  · have hctrl : regAt off ≠ .ctrl := by simp [hreg]
    rw [if_neg hctrl]
    exact step_lockedWrite hr (by simp [hreg]) hi (by rw [hreg]; rfl)

/-- Storing a word in register i of a group leaves the other registers as they were. -/
theorem regGroup_set_getElem (g : RegGroup) (i j : Fin 4) (w : Word) :
    (g.set i w)[j] = if j = i then w else g[j] := by
  simp only [Fin.getElem_fin, Vector.getElem_set, Fin.ext_iff, eq_comm]

/-- Settles O22: dropped while BUSY, else stored in the one register of the group. -/
theorem ivAndDinWrites : Obligations.IvAndDinWrites := by
  unfold Obligations.IvAndDinWrites
  intro s off w rest i hr hi
  refine ⟨fun hb hreg => ?_, fun hb hreg => ⟨s.iv.set i w, fun j => regGroup_set_getElem s.iv i j w, ?_⟩,
    fun hb hreg => ⟨s.din.set i w, fun j => regGroup_set_getElem s.din i j w, ?_⟩⟩
  · have hdrop : writeReg (regAt off) w s = recordError .busy s := by
      rcases hreg with hreg | hreg <;> simp [hreg, writeReg, writeUnlessBusy, hb]
    have hcmd : regAt off ≠ .cmd := by rcases hreg with hreg | hreg <;> simp [hreg]
    rw [step_writeReg hr hcmd hi, hdrop, recordError_inputs_eq]
  · rw [step_writeReg hr (by simp [hreg]) hi, hreg]
    simp [writeReg, writeUnlessBusy, hb]
  · rw [step_writeReg hr (by simp [hreg]) hi, hreg]
    simp [writeReg, writeUnlessBusy, hb]

/-- A write to a read-only register or a reserved location does nothing (R66). -/
theorem writeReg_readOnly {r : Reg} (h : r = .cap ∨ r = .reserved ∨ r.isResult = true) (w : Word) (s : State) :
    writeReg r w s = s := by
  cases r with
  | ctrl | status | irqen | key | iv | din => simp [Reg.isResult] at h
  | cap | cmd | msglen | outlen | padinfo | dout | chain | reserved => rfl

/-- Settles O23: IRQEN has no lock, and the others ignore a write. -/
theorem irqenAndIgnoredWrites : Obligations.IrqenAndIgnoredWrites := by
  unfold Obligations.IrqenAndIgnoredWrites
  intro s off w rest hr hi
  constructor
  · intro hreg
    rw [step_writeReg hr (by simp [hreg]) hi, hreg]
    rfl
  · intro hreg
    have hcmd : regAt off ≠ .cmd := by
      intro hc
      simp [hc, Reg.isResult] at hreg
    rw [step_writeReg hr hcmd hi, writeReg_readOnly hreg]

/-- The offsets from 0x24 to 0x2F and from 0x70 on lie in no register's word (R20). -/
theorem regAt_reserved {off : BitVec 8} (h : (0x24 ≤ off.toNat ∧ off.toNat < 0x30) ∨ 0x70 ≤ off.toNat) :
    regAt off = .reserved := by
  unfold regAt
  split
  case h_26 => rfl
  all_goals omega

/-- The offset that names a register is aligned and reaches it (R20). -/
theorem regAt_offsetOf (r : Reg) : regAt (offsetOf r) = r ∧ (offsetOf r).toNat % 4 = 0 := by
  cases r with
  | iv i | din i | dout i | chain i => revert i; decide
  | _ => decide

/-- Settles O24: the table's rows one by one, then the reserved ranges and the way back from a register. -/
theorem registerMap : Obligations.RegisterMap := by
  unfold Obligations.RegisterMap
  exact ⟨by decide, by decide, by decide, by decide, by decide, fun off h => regAt_reserved h, regAt_offsetOf⟩

/-! ### HEAD -/

/-- A little-endian word by its bytes (R62). -/
theorem packWord_toNat (b0 b1 b2 b3 : Byte) :
    (packWord b0 b1 b2 b3).toNat = b0.toNat + b1.toNat * 256 + b2.toNat * 65536 + b3.toNat * 16777216 := by
  have h0 := b0.isLt
  have h1 := b1.isLt
  have h2 := b2.isLt
  have h3 := b3.isLt
  have w0 := toNat_setWidth_word b0 (by omega)
  have w1 := toNat_setWidth_word b1 (by omega)
  have w2 := toNat_setWidth_word b2 (by omega)
  have w3 := toNat_setWidth_word b3 (by omega)
  have hlow : ((b1.setWidth 32 <<< 8) ||| b0.setWidth 32).toNat = b1.toNat * 256 + b0.toNat := by
    rw [toNat_shiftLeft_or _ _ 8 (by omega) (by omega), w0, w1]
    rfl
  have hmid : ((b2.setWidth 32 <<< 16) ||| ((b1.setWidth 32 <<< 8) ||| b0.setWidth 32)).toNat =
      b2.toNat * 65536 + (b1.toNat * 256 + b0.toNat) := by
    rw [toNat_shiftLeft_or _ _ 16 (by omega) (by omega), hlow, w2]
    rfl
  rw [packWord, BitVec.or_comm, BitVec.or_comm (_ ||| _) (b2.setWidth 32 <<< 16), BitVec.or_comm (b0.setWidth 32),
    toNat_shiftLeft_or _ _ 24 (by omega) (by omega), hmid, w3]
  omega

/-- Storing a block in its four registers and reading it back gives the block (R62). -/
theorem blk_pack (b : Block) : blk (pack b) = b := by
  refine Vector.ext fun i hi => ?_
  apply BitVec.eq_of_toNat_eq
  simp only [blk, pack, Vector.getElem_ofFn, BitVec.extractLsb'_toNat, packWord_toNat, Nat.shiftRight_eq_div_pow]
  have h0 := (b[4 * (i / 4)]'(by omega)).isLt
  have h1 := (b[4 * (i / 4) + 1]'(by omega)).isLt
  have h2 := (b[4 * (i / 4) + 2]'(by omega)).isLt
  have h3 := (b[4 * (i / 4) + 3]'(by omega)).isLt
  have hlane : i % 4 = 0 ∨ i % 4 = 1 ∨ i % 4 = 2 ∨ i % 4 = 3 := by omega
  rcases hlane with h | h | h | h
  · have : b[i] = b[4 * (i / 4)]'(by omega) := by congr 1; omega
    rw [this, h]; omega
  · have : b[i] = b[4 * (i / 4) + 1]'(by omega) := by congr 1; omega
    rw [this, h]; omega
  · have : b[i] = b[4 * (i / 4) + 2]'(by omega) := by congr 1; omega
    rw [this, h]; omega
  · have : b[i] = b[4 * (i / 4) + 3]'(by omega) := by congr 1; omega
    rw [this, h]; omega

/-- ENC_BLOCK's effect on a state whose DIN has just been written with block p (R132). -/
def encPlaintext (u : State) (p : Block) : State := encBlockEffect u.alphabet { u with din := pack p }

theorem encPlaintext_msgLen {u : State} (h : u.msgLen.toNat < 0xFFFFFFF0) (p : Block) :
    (encPlaintext u p).msgLen.toNat = u.msgLen.toNat + 16 := nextLen_toNat h

/-- ENC_BLOCK writes the bytes of its plaintext to HEAD from position MSGLEN on (R132). -/
theorem encPlaintext_head (u : State) (p : Block) (q : Fin 17) :
    (encPlaintext u p).head[q] =
      if h : u.msgLen.toNat ≤ q.val ∧ q.val < u.msgLen.toNat + 16 then p[q.val - u.msgLen.toNat]'(by omega)
      else u.head[q] := by
  simp only [encPlaintext, encBlockEffect, Fin.getElem_fin, captureHead_getElem, blk_pack, State.len]

theorem bytesOf_length (bs : List Block) : (bytesOf bs).length = 16 * bs.length := by
  simp [bytesOf, Nat.mul_comm]

/-- The bytes of a text with one more block: the text's own, then the block's, then nothing (R63). -/
theorem bytesOf_append_getD (bs : List Block) (p : Block) (q : Nat) :
    (bytesOf (bs ++ [p])).getD q 0 =
      if h : 16 * bs.length ≤ q ∧ q < 16 * bs.length + 16 then p[q - 16 * bs.length]'(by omega)
      else (bytesOf bs).getD q 0 := by
  have hlen := bytesOf_length bs
  have happ : bytesOf (bs ++ [p]) = bytesOf bs ++ p.toList := by simp [bytesOf]
  rw [happ]
  by_cases hq : q < 16 * bs.length
  · rw [List.getD_append _ _ _ _ (by omega), dif_neg (by omega)]
  · rw [List.getD_append_right _ _ _ _ (by omega), hlen]
    by_cases hin : q < 16 * bs.length + 16
    · have hidx : q - 16 * bs.length < p.toList.length := by rw [Vector.length_toList]; omega
      rw [dif_pos ⟨by omega, hin⟩, List.getD_eq_getElem _ _ hidx, Vector.getElem_toList]
    · rw [dif_neg (by omega), List.getD_eq_default _ _ (by rw [Vector.length_toList]; omega),
        List.getD_eq_default _ _ (by omega)]

/-- HEAD and MSGLEN after the blocks of a session, by induction on the blocks from the last one back (R36, R132). -/
theorem head_of_session (s : State) (ps : List Block) (hlen : ps.length ≤ 0x0FFFFFFF) :
    (ps.foldl encPlaintext (startEncEffect s)).msgLen.toNat = 16 * ps.length ∧
    ∀ q : Fin 17, (ps.foldl encPlaintext (startEncEffect s)).head[q] = (bytesOf ps).getD q.val 0 := by
  induction ps using List.reverseRecOn with
  | nil => exact ⟨rfl, fun q => by simp [startEncEffect, bytesOf]⟩
  | append_singleton ps p ih =>
    rw [List.length_append, List.length_singleton] at hlen
    obtain ⟨hm, hhead⟩ := ih (by omega)
    rw [List.foldl_append, List.foldl_cons, List.foldl_nil, List.length_append, List.length_singleton]
    refine ⟨?_, fun q => ?_⟩
    · rw [encPlaintext_msgLen (by omega), hm]
      omega
    · rw [encPlaintext_head, bytesOf_append_getD]
      simp only [hm, hhead]

/-- Settles O19: the session's ENC_BLOCKs one by one. -/
theorem headHoldsTheFirst17Bytes : Obligations.HeadHoldsTheFirst17Bytes := by
  unfold Obligations.HeadHoldsTheFirst17Bytes
  intro s ps hlen
  exact head_of_session s ps hlen

end Sys2Proof.Proofs
end

/-! The bus (spec 20_memory.md R60 to R74): the packing of blocks, which access a platform address makes, what a read
answers, what a step can change while a command is in flight, and that the command in flight ends. -/

namespace Sys2Proof.Proofs

open Sys2Proof Sys2Proof.Machine Sys2Proof.Laws

/-! ### The packing of a block -/

/-- A byte of a block by its word and its place there (R62). -/
theorem blk_getElem_toNat (r : RegGroup) (i : Fin 16) :
    ((blk r)[i]).toNat = (r[i.val / 4]'(by omega)).toNat / 2 ^ (8 * (i.val % 4)) % 256 := by
  simp [blk, BitVec.extractLsb'_toNat, Nat.shiftRight_eq_div_pow]

/-- A stored word is the little-endian number of its four bytes (R62). -/
theorem pack_getElem_toNat (b : Block) (j : Fin 4) :
    ((pack b)[j]).toNat =
      (b[4 * j.val]'(by omega)).toNat + (b[4 * j.val + 1]'(by omega)).toNat * 256 +
        (b[4 * j.val + 2]'(by omega)).toNat * 65536 + (b[4 * j.val + 3]'(by omega)).toNat * 16777216 := by
  simp [pack, packWord_toNat]

/-- A word put together from its own four bytes is that word (R62). -/
theorem packWord_extractLsb' (w : Word) :
    packWord (w.extractLsb' 0 8) (w.extractLsb' 8 8) (w.extractLsb' 16 8) (w.extractLsb' 24 8) = w := by
  apply BitVec.eq_of_toNat_eq
  have hw := w.isLt
  simp only [packWord_toNat, BitVec.extractLsb'_toNat, Nat.shiftRight_eq_div_pow]
  omega

/-- Reading a block from its four registers and storing it back gives the registers (R62). -/
theorem pack_blk (r : RegGroup) : pack (blk r) = r := by
  refine Vector.ext fun j hj => ?_
  have hword : ∀ k, k < 4 → (4 * j + k) / 4 = j ∧ (4 * j + k) % 4 = k := by omega
  have hlane (k : Nat) (hk : k < 4) : (blk r)[4 * j + k] = r[j].extractLsb' (8 * k) 8 := by
    simp [blk, hword k hk]
  have hlane0 : (blk r)[4 * j] = r[j].extractLsb' (8 * 0) 8 := hlane 0 (by omega)
  simp only [pack, Vector.getElem_ofFn, hlane0, hlane 1 (by omega), hlane 2 (by omega), hlane 3 (by omega)]
  exact packWord_extractLsb' r[j]

/-- Settles O45: both directions in numbers, and the two round trips. -/
theorem blockPacking : Obligations.BlockPacking := by
  unfold Obligations.BlockPacking
  exact ⟨blk_getElem_toNat, pack_getElem_toNat, blk_pack, pack_blk⟩

/-! ### What a read answers -/

/-- Out of reset, a read of a register that is no result register, or of any register while BUSY = 0, answers with the
register (R61, R64). -/
theorem busRead_register {s : State} {off : BitVec 8} (hr : s.rstN = true)
    (h : s.busy = false ∨ (regAt off).isResult = false) :
    busRead off s = s.answerRead off (s.readReg (regAt off)) := by
  have hfree : ((regAt off).isResult && s.busy) = false := by rcases h with h | h <;> simp [h]
  simp [busRead, hr, hfree]

/-- Out of reset, a read of a result register while BUSY answers with the next free value (R64). -/
theorem busRead_busy_result {s : State} {off : BitVec 8} (hr : s.rstN = true) (hb : s.busy = true)
    (h : (regAt off).isResult = true) :
    busRead off s = { s.answerRead off (Config.anyWord s.draws) with draws := s.draws + 1 } := by
  simp [busRead, hr, hb, h]

/-- Settles O26: the answer is the register, and the values of the whole-word registers are by definition. -/
theorem readReturnsTheRegister : Obligations.ReadReturnsTheRegister := by
  unfold Obligations.ReadReturnsTheRegister
  constructor
  · intro s off rest hr hi h
    rw [step_read hi, busRead_register hr h, State.endStep, answerRead_inputs, hi]
    rfl
  · intro s
    exact ⟨rfl, rfl, rfl, fun i => ⟨rfl, rfl, rfl, rfl⟩⟩

/-- A read changes nothing in the engine, to the end of its step (R61, R67). -/
theorem sameEngine_read (off : BitVec 8) (s : State) : SameEngine s (busRead off s).endStep :=
  sameEngine_trans (busRead_sameEngine off s) (sameEngine_endStep _)

/-- Settles O27: the answer is a function of the model's own counter alone. -/
theorem busyResultReadsAreFree : Obligations.BusyResultReadsAreFree := by
  unfold Obligations.BusyResultReadsAreFree
  intro s t s' t' off rest hrs hrt hbs hbt hres his hit hreads hdraws hs ht
  obtain rfl := Host.Outcome.next.inj ((step_read his).symm.trans hs)
  obtain rfl := Host.Outcome.next.inj ((step_read (hit.trans his)).symm.trans ht)
  refine ⟨?_, sameEngine_read off s, sameEngine_read off t⟩
  rw [endStep_reads, endStep_reads, busRead_busy_result hrs hbs hres, busRead_busy_result hrt hbt hres]
  simp [hreads, hdraws]

/-! ### The access that an event makes -/

/-- What a step does with what it fetched: the second half of `step`. -/
def outcomeOf (f : Fetched) (s : State) : Host.Outcome State Fault Refusal :=
  match f with
  | .command i => exec i s
  | .answer o => o

theorem step_eq_outcomeOf (s : State) : step s = outcomeOf (fetch s) s := rfl

/-- The step of an access by offset. -/
theorem step_access {s : State} {a : Access} {rest : List Event} (hi : s.inputs = .bus a :: rest) :
    step s = outcomeOf (fetchAccess a s) s := step_bus hi

theorem fetch_busAt {s : State} {addr : Nat} {width : Width} {op : BusOp} {rest : List Event} {off : BitVec 8}
    (hi : s.inputs = .busAt addr width op :: rest) (hw : Config.windowOffset addr = some off) :
    fetch s = fetchAccess { width := width, off := off, op := op } s := by
  simp only [fetch, hi, hw]

theorem fetch_busAt_outside {s : State} {addr : Nat} {width : Width} {op : BusOp} {rest : List Event}
    (hi : s.inputs = .busAt addr width op :: rest) (hw : Config.windowOffset addr = none) :
    fetch s = .answer (.next s.endStep) := by
  simp only [fetch, hi, hw]

/-- The window's offsets are the 256 addresses from ENGINE_BASE on (R60, R68). -/
theorem windowOffset_base_add (off : BitVec 8) : Config.windowOffset (Config.engineBase + off.toNat) = some off := by
  have hlt := off.isLt
  rw [Config.windowOffset, if_pos (by omega), Nat.add_sub_cancel_left, BitVec.ofNat_toNat, BitVec.setWidth_eq]

theorem windowOffset_outside {addr : Nat} (h : addr < Config.engineBase ∨ Config.engineBase + 256 ≤ addr) :
    Config.windowOffset addr = none := by
  rw [Config.windowOffset, if_neg (by omega)]

/-- An access narrower than 32 bits is refused (R65). -/
theorem fetchAccess_narrow {a : Access} (h : a.width ≠ .word) (s : State) :
    fetchAccess a s = .answer (.refused .narrowAccess) := by
  rw [fetchAccess, if_neg h]

/-! ### A host step does not look at the events -/

/-- An update of the engine that neither looks at the schedule nor changes it. -/
def IgnoresInputs (f : State → State) : Prop :=
  ∀ (s : State) (es : List Event), f { s with inputs := es } = { f s with inputs := es }

theorem IgnoresInputs.inputs_eq {f : State → State} (hf : IgnoresInputs f) (s : State) :
    (f s).inputs = s.inputs := by
  have h : f s = { f s with inputs := s.inputs } := hf s s.inputs
  rw [h]

/-- Of the schedule before the step, only what follows the current event stands after it. -/
theorem IgnoresInputs.endStep_eq {f : State → State} (hf : IgnoresInputs f) {s t : State}
    (ht : t = { s with inputs := t.inputs }) (htail : t.inputs.tail = s.inputs.tail) :
    (f t).endStep = (f s).endStep := by
  rw [State.endStep, State.endStep, hf.inputs_eq, hf.inputs_eq, htail, ht, hf]

/-- The outcome of a step that such an update makes up. -/
theorem next_endStep_inputs {f : State → State} (hf : IgnoresInputs f) {s t : State}
    (ht : t = { s with inputs := t.inputs }) (htail : t.inputs.tail = s.inputs.tail) :
    (.next (f t).endStep : Host.Outcome State Fault Refusal) = .next (f s).endStep :=
  congrArg _ (hf.endStep_eq ht htail)

theorem ignoresInputs_id : IgnoresInputs id := fun _ _ => rfl

/-- A choice between two such updates, by a condition on the engine. -/
theorem IgnoresInputs.ite {c : State → Prop} [DecidablePred c] {f g : State → State}
    (hc : ∀ (s : State) (es : List Event), c { s with inputs := es } = c s) (hf : IgnoresInputs f)
    (hg : IgnoresInputs g) : IgnoresInputs fun s => if c s then f s else g s := by
  intro s es
  by_cases h : c s
  · simp only [hc, h, if_true, hf s es]
  · simp only [hc, h, if_false, hg s es]

theorem ignoresInputs_recordError (c : ErrCode) : IgnoresInputs (recordError c) := fun _ _ => rfl

theorem ignoresInputs_busRead (off : BitVec 8) : IgnoresInputs (busRead off) := by
  have hreg (r : Reg) : IgnoresInputs fun s => s.answerRead off (s.readReg r) := by
    intro s es
    cases r <;> rfl
  exact .ite (fun _ _ => rfl) (fun _ _ => rfl) (.ite (fun _ _ => rfl) (fun _ _ => rfl) (hreg _))

theorem ignoresInputs_writeUnlessBusy {store : State → State} (h : IgnoresInputs store) :
    IgnoresInputs (writeUnlessBusy store) :=
  .ite (fun _ _ => rfl) (ignoresInputs_recordError _) h

theorem ignoresInputs_writeUnlessLocked {store : State → State} (h : IgnoresInputs store) :
    IgnoresInputs (writeUnlessLocked store) :=
  .ite (fun _ _ => rfl) (ignoresInputs_recordError _) (.ite (fun _ _ => rfl) h (ignoresInputs_recordError _))

theorem ignoresInputs_writeReg (r : Reg) (w : Word) : IgnoresInputs (writeReg r w) := by
  cases r with
  | ctrl | key => exact ignoresInputs_writeUnlessLocked fun _ _ => rfl
  | iv i | din i => exact ignoresInputs_writeUnlessBusy fun _ _ => rfl
  | _ => exact fun _ _ => rfl

theorem ignoresInputs_issue (i : Instr) : IgnoresInputs fun s => issue i (legality i s) s := by
  have hfixed (r : Option ErrCode) : IgnoresInputs (issue i r) := by
    cases r <;> exact .ite (fun _ _ => rfl) (ignoresInputs_recordError _) fun _ _ => rfl
  intro s es
  have hlegal : legality i { s with inputs := es } = legality i s := legality_congr i rfl rfl rfl
  simp only [hlegal, hfixed _ s es]

theorem ignoresInputs_issueIllegal : IgnoresInputs issueIllegal :=
  .ite (fun _ _ => rfl) (ignoresInputs_recordError _) (ignoresInputs_recordError _)

/-- In the host's turn, a command's step is the same whatever the event that asks for it. -/
theorem exec_inputs {i : Instr} {s t : State} (ht : t = { s with inputs := t.inputs }) (hm : s.engineMoves = false)
    (hm' : t.engineMoves = false) (htail : t.inputs.tail = s.inputs.tail) : exec i t = exec i s := by
  by_cases hi : i = .nop
  · subst hi
    exact next_endStep_inputs ignoresInputs_id ht htail
  · rw [exec_host hi hm, exec_host hi hm', (ignoresInputs_issue i).endStep_eq ht htail]

/-! What a write comes to, by the four cases of R29, R61, R84 and R230. -/

theorem fetchWrite_held {s : State} (hr : s.rstN = false) (off : BitVec 8) (w : Word) :
    fetchWrite off w s = .answer (.next s.endStep) := by
  simp [fetchWrite, hr]

theorem fetchWrite_command {s : State} {off : BitVec 8} {w : Word} {i : Instr} (hr : s.rstN = true)
    (hc : regAt off = .cmd) (hd : decode w = .ok i) : fetchWrite off w s = .command i :=
  fetchAccess_cmd_of_decode hr hc hd

theorem fetchWrite_illegal {s : State} {off : BitVec 8} {w : Word} {e : DecodeError} (hr : s.rstN = true)
    (hc : regAt off = .cmd) (hd : decode w = .error e) :
    fetchWrite off w s = .answer (.next (issueIllegal s).endStep) := by
  simp [fetchWrite, hr, hc, hd]

theorem fetchWrite_register {s : State} {off : BitVec 8} (hr : s.rstN = true) (hc : regAt off ≠ .cmd) (w : Word) :
    fetchWrite off w s = .answer (.next (writeReg (regAt off) w s).endStep) := by
  simp [fetchWrite, hr, hc]

/-- In the host's turn, a write comes to the same whatever the event that makes it. -/
theorem outcomeOf_fetchWrite_inputs (off : BitVec 8) (w : Word) {s t : State} (ht : t = { s with inputs := t.inputs })
    (hm : s.engineMoves = false) (hm' : t.engineMoves = false) (htail : t.inputs.tail = s.inputs.tail) :
    outcomeOf (fetchWrite off w t) t = outcomeOf (fetchWrite off w s) s := by
  have hpin : t.rstN = s.rstN := by rw [ht]
  cases hr : s.rstN with
  | false =>
    rw [fetchWrite_held hr, fetchWrite_held (hpin.trans hr)]
    exact next_endStep_inputs ignoresInputs_id ht htail
  | true =>
    by_cases hc : regAt off = .cmd
    · cases hd : decode w with
      | ok i =>
        rw [fetchWrite_command hr hc hd, fetchWrite_command (hpin.trans hr) hc hd]
        exact exec_inputs ht hm hm' htail
      | error e =>
        rw [fetchWrite_illegal hr hc hd, fetchWrite_illegal (hpin.trans hr) hc hd]
        exact next_endStep_inputs ignoresInputs_issueIllegal ht htail
    · rw [fetchWrite_register hr hc, fetchWrite_register (hpin.trans hr) hc]
      exact next_endStep_inputs (ignoresInputs_writeReg _ w) ht htail

/-- In the host's turn, an access comes to the same whatever the event that makes it. -/
theorem outcomeOf_fetchAccess_inputs (a : Access) {s t : State} (ht : t = { s with inputs := t.inputs })
    (hm : s.engineMoves = false) (hm' : t.engineMoves = false) (htail : t.inputs.tail = s.inputs.tail) :
    outcomeOf (fetchAccess a t) t = outcomeOf (fetchAccess a s) s := by
  obtain ⟨width, off, op⟩ := a
  by_cases hw : width = .word
  · subst hw
    cases op with
    | read => exact next_endStep_inputs (ignoresInputs_busRead off) ht htail
    | write w => exact outcomeOf_fetchWrite_inputs off w ht hm hm' htail
  · rw [fetchAccess_narrow hw, fetchAccess_narrow hw]
    rfl

/-! ### Width, alignment and the window -/

/-- A host access by offset, with any other host event in its place before the same events. -/
theorem step_access_of_head {s : State} {a : Access} {e : Event} {rest : List Event} (hi : s.inputs = e :: rest)
    (hm : s.engineMoves = false) :
    step { s with inputs := .bus a :: rest } = outcomeOf (fetchAccess a s) s := by
  rw [step_access rfl]
  exact outcomeOf_fetchAccess_inputs a rfl hm rfl (by rw [hi]; rfl)

/-- The register of an offset is that of its word (R65). -/
theorem regAt_congr {a b : BitVec 8} (h : a.toNat / 4 = b.toNat / 4) : regAt a = regAt b := by
  rw [regAt, regAt, h]

/-- A write looks at its offset through the register that it reaches, and no further (R61). -/
theorem fetchWrite_congr {a b : BitVec 8} (h : regAt a = regAt b) (w : Word) (s : State) :
    fetchWrite a w s = fetchWrite b w s := by
  simp only [fetchWrite, h]

/-- Settles O25: an offset counts by its register alone, and a narrow access is refused before its offset is looked at. -/
theorem widthAndAlignment : Obligations.WidthAndAlignment := by
  unfold Obligations.WidthAndAlignment
  refine ⟨?_, fun s a b h => by rw [regAt_congr h], ?_, ?_⟩
  · rintro s t a b w rest h hi rfl
    have hm : s.engineMoves = false := by simp [State.engineMoves, hi, busWriteEvent]
    rw [busWriteEvent, step_access_of_head hi hm, step_access hi]
    exact congrArg (outcomeOf · s) (fetchWrite_congr (regAt_congr h) w s)
  · intro s a rest hw hi
    rw [step_access hi, fetchAccess_narrow hw]
    rfl
  · intro s off width op rest hw hi
    rw [step_eq_outcomeOf, fetch_busAt hi (windowOffset_base_add off), fetchAccess_narrow hw]
    rfl

/-- Settles O29: the address selects its offset, and the event that carries the access does not matter. -/
theorem platformAddressSelectsTheWindow : Obligations.PlatformAddressSelectsTheWindow := by
  unfold Obligations.PlatformAddressSelectsTheWindow
  intro s addr op rest hi
  constructor
  · rintro off rfl
    have hm : s.engineMoves = false := by simp [State.engineMoves, hi]
    rw [step_eq_outcomeOf, fetch_busAt hi (windowOffset_base_add off), step_access_of_head hi hm]
  · intro hout
    rw [step_eq_outcomeOf, fetch_busAt_outside hi (windowOffset_outside hout), State.endStep, hi]
    rfl

/-! ### What stops, and what changes while BUSY -/

/-- What was fetched leads to a next state: a command, or an answer that is one. -/
def GoesOn (f : Fetched) : Prop := ∀ s : State, ∃ t, outcomeOf f s = .next t

theorem goesOn_command (i : Instr) : GoesOn (.command i) := fun s => exec_next i s

theorem goesOn_answer (t : State) : GoesOn (.answer (.next t)) := fun _ => ⟨t, rfl⟩

theorem goesOn_engineTurn (s : State) : GoesOn (engineTurn s) := by
  unfold engineTurn
  split
  · split
    · exact goesOn_command _
    · exact goesOn_answer _
  · exact goesOn_answer _

theorem goesOn_fetchWrite (off : BitVec 8) (w : Word) (s : State) : GoesOn (fetchWrite off w s) := by
  unfold fetchWrite
  split
  · split
    · split
      · exact goesOn_command _
      · exact goesOn_answer _
    · exact goesOn_answer _
  · exact goesOn_answer _

/-- A whole-word access goes on, whatever it reads or writes (R65). -/
theorem goesOn_fetchAccess {a : Access} (hw : a.width = .word) (s : State) : GoesOn (fetchAccess a s) := by
  rw [fetchAccess, if_pos hw]
  split
  · exact goesOn_answer _
  · exact goesOn_fetchWrite _ _ _

theorem goesOn_fetch {s : State} (h : ∀ e, s.inputs.head? = some e → e.admitted = true) :
    GoesOn (fetch s) := by
  cases hi : s.inputs with
  | nil => rw [fetch, hi]; exact goesOn_engineTurn s
  | cons e rest =>
    have he : e.admitted = true := h e (by rw [hi]; rfl)
    cases e with
    | engine => rw [fetch, hi]; exact goesOn_engineTurn s
    | bus a => rw [fetch, hi]; exact goesOn_fetchAccess (of_decide_eq_true he) s
    | busAt addr width op =>
      cases hw : Config.windowOffset addr with
      | some off =>
        have hword : width = .word := of_decide_eq_true he
        rw [fetch_busAt hi hw]
        exact goesOn_fetchAccess hword s
      | none => rw [fetch_busAt_outside hi hw]; exact goesOn_answer _
    | reset | rstLow | rstHigh => rw [fetch, hi]; exact goesOn_answer _

/-- Settles O42: every event but a narrow access is fetched as a command or as a next state. -/
theorem onlyNarrowAccessesStop : Obligations.OnlyNarrowAccessesStop := by
  unfold Obligations.OnlyNarrowAccessesStop
  intro s h
  exact goesOn_fetch h s

/-- t is s but for DONE, ERR, IRQEN, the pin and the model's own fields. -/
def OnlyFlagsDiffer (s t : State) : Prop :=
  t = { s with
    done := t.done, err := t.err, ieDone := t.ieDone, ieErr := t.ieErr, rstN := t.rstN, inputs := t.inputs,
    reads := t.reads, draws := t.draws }

theorem onlyFlagsDiffer_of_sameEngine {s t : State} (h : SameEngine s t) : OnlyFlagsDiffer s t := by
  unfold OnlyFlagsDiffer
  rw [h]

/-- While BUSY, a command's issue can only record E_BUSY (R85). -/
theorem issue_busy {s : State} (hb : s.busy = true) (i : Instr) (r : Option ErrCode) :
    issue i r s = recordError .busy s := by
  simp [issue, hb]

/-- A step between two busy states is no completion and no reset, so it changes flags at the most (R74). -/
theorem onlyFlagsDiffer_of_busy {s t : State} (hs : s.busy = true) (hstep : step s = .next t) (ht : t.busy = true) :
    OnlyFlagsDiffer s t := by
  cases step_cases hstep with
  | completes => cases ht
  | idle => rfl
  | read off => exact onlyFlagsDiffer_of_sameEngine (sameEngine_read off s)
  | write off w =>
    unfold OnlyFlagsDiffer
    rw [writeReg_busy hs]
    rfl
  | issue i => rw [issue_busy hs]; rfl
  | illegal => rw [issueIllegal_eq]; rfl
  | reset => cases ht
  | rstLow => cases ht
  | rstHigh => rfl

/-- Settles O33: flags are no operand and no result. -/
theorem operandsFrozenWhileBusy : Obligations.OperandsFrozenWhileBusy := by
  unfold Obligations.OperandsFrozenWhileBusy
  intro s t hs hstep ht
  have hflags : OnlyFlagsDiffer s t := onlyFlagsDiffer_of_busy hs hstep ht
  unfold OnlyFlagsDiffer at hflags
  rw [hflags]
  exact ⟨⟨rfl, rfl, rfl, rfl, rfl, rfl, rfl⟩, rfl, rfl, rfl, rfl, rfl⟩

/-! ### The command in flight ends -/

/-- A legal engine with a command in flight is out of reset (R230). -/
theorem rstN_of_busy {s : State} (h : Inv s) (hb : s.busy = true) : s.rstN = true := by
  by_contra hr
  have hheld := h.held (Bool.eq_false_of_not_eq_true hr)
  rw [hheld] at hb
  cases hb

/-- The engine's turn in a legal state completes the command in flight (R87). -/
theorem step_completion {s : State} {i : Instr} (h : Inv s) (hp : s.pend = some i) (hm : s.engineMoves = true) :
    step s = .next (effectOf i s).finish.endStep := by
  have hr : s.rstN = true := rstN_of_busy h ((busy_eq_true_iff s).2 ⟨i, hp⟩)
  rw [step_engine_of_pend hr hm hp, exec_engine (h.pending i hp).1 hm hp]

/-- Every step is over with the event that asked for it (log 1). -/
theorem step_inputs {s t : State} (hs : step s = .next t) : t.inputs = s.inputs.tail := by
  have hkeeps {f : State → State} (hf : IgnoresInputs f) : (f s).endStep.inputs = s.inputs.tail :=
    congrArg List.tail (hf.inputs_eq s)
  cases step_cases hs with
  | completes i => rw [endStep_inputs, finish_inputs, effectOf_frame]
  | idle => rfl
  | read off => exact hkeeps (ignoresInputs_busRead off)
  | write off w => exact hkeeps (ignoresInputs_writeReg _ w)
  | issue i => exact hkeeps (f := fun s => issue i (legality i s) s) (ignoresInputs_issue i)
  | illegal => exact hkeeps ignoresInputs_issueIllegal
  | reset | rstLow | rstHigh => rfl

/-- Settles O43, by induction on the schedule: each event is used up by its step, and the empty schedule gives the engine
its turn. -/
theorem busyEndsInFiniteTime : Obligations.BusyEndsInFiniteTime := by
  unfold Obligations.BusyEndsInFiniteTime
  intro s
  induction hes : s.inputs generalizing s with
  | nil =>
    intro h hb _
    obtain ⟨i, hp⟩ := (busy_eq_true_iff s).1 hb
    have hs : step s = .next (effectOf i s).finish.endStep := step_completion h hp (by simp [State.engineMoves, hes])
    exact ⟨1, _, by simp, run_succ_of_step 0 hs, rfl⟩
  | cons e rest ih =>
    intro h hb hall
    rw [List.all_cons, Bool.and_eq_true] at hall
    obtain ⟨he, hrest⟩ := hall
    obtain ⟨t, hs⟩ := onlyNarrowAccessesStop s fun e' h' => by
      rw [hes] at h'
      obtain rfl := Option.some.inj h'
      exact he
    cases hbt : t.busy
    · exact ⟨1, t, by simp, run_succ_of_step 0 hs, hbt⟩
    · have hin : t.inputs = rest := by rw [step_inputs hs, hes]; rfl
      obtain ⟨k, u, hk, hrun, hu⟩ := ih t hin (everyStepKeepsTheInvariant s t h hs) hbt hrest
      exact ⟨k + 1, u, by simpa using hk, (run_succ_of_step k hs).trans hrun, hu⟩

/-! ### Polling before the completion -/

/-- An update of the engine that neither looks at the model's own fields nor changes them. -/
def IgnoresOwnFields (f : State → State) : Prop :=
  ∀ (s : State) (es : List Event) (rs : List ReadValue) (d : Nat),
    f { s with inputs := es, reads := rs, draws := d } = { f s with inputs := es, reads := rs, draws := d }

/-- Such an update takes equal engines to equal engines. -/
theorem IgnoresOwnFields.sameEngine {f : State → State} (hf : IgnoresOwnFields f) {s t : State}
    (h : SameEngine s t) : SameEngine (f s) (f t) := by
  unfold SameEngine at h ⊢
  rw [h, hf]

theorem ignoresOwnFields_reportUnpad (T : Word) (last : Byte) : IgnoresOwnFields (reportUnpad T last) :=
  fun _ _ _ _ => rfl

theorem ignoresOwnFields_skipUnpad (T : Word) : IgnoresOwnFields (skipUnpad T) := fun _ _ _ _ => rfl

/-- What DEC_FINAL does before its unpad report (R163). -/
def decFinalBeforeReport (A : List Byte) (s : State) : State :=
  { s with dout := pack (s.chainDecrypt A), chain := s.din, msgLen := s.nextLen, session := .idle }

theorem decFinalEffect_eq (A : List Byte) (s : State) :
    decFinalEffect A s =
      if s.alphaSel then skipUnpad s.nextLen (decFinalBeforeReport A s)
      else reportUnpad s.nextLen (s.chainDecrypt A)[15] (decFinalBeforeReport A s) := rfl

theorem ignoresOwnFields_decFinalBeforeReport (A : List Byte) : IgnoresOwnFields (decFinalBeforeReport A) :=
  fun _ _ _ _ => rfl

/-- Neither unpad report of DEC_FINAL looks at the model's own fields, nor does the plaintext it reports on (R163). -/
theorem ignoresOwnFields_decFinalEffect (A : List Byte) : IgnoresOwnFields (decFinalEffect A) := by
  intro s es rs d
  have hp : ({ s with inputs := es, reads := rs, draws := d } : State).chainDecrypt A = s.chainDecrypt A := rfl
  have hT : ({ s with inputs := es, reads := rs, draws := d } : State).nextLen = s.nextLen := rfl
  rw [decFinalEffect_eq, decFinalEffect_eq, ignoresOwnFields_decFinalBeforeReport A s es rs d, hp, hT]
  split
  · exact ignoresOwnFields_skipUnpad _ _ es rs d
  · exact ignoresOwnFields_reportUnpad _ _ _ es rs d

/-- No effect looks at the model's own fields: the alphabet is CTRL's, and the effect under it the engine's. -/
theorem ignoresOwnFields_effectOf (i : Instr) : IgnoresOwnFields (effectOf i) := by
  intro s es rs d
  have hA : ({ s with inputs := es, reads := rs, draws := d } : State).alphabet = s.alphabet := rfl
  simp only [effectOf, hA]
  generalize s.alphabet = A
  cases i with
  | decFinal => exact ignoresOwnFields_decFinalEffect A s es rs d
  | _ => rfl

/-- A completion leaves the same engine in two states that differ in the model's own fields alone (R87, R242). -/
theorem completion_sameEngine (i : Instr) {s t : State} (h : SameEngine s t) :
    SameEngine (effectOf i s).finish.endStep (effectOf i t).finish.endStep := by
  have hfinish : SameEngine (effectOf i s).finish (effectOf i t).finish :=
    IgnoresOwnFields.sameEngine (fun _ _ _ _ => rfl) ((ignoresOwnFields_effectOf i).sameEngine h)
  unfold SameEngine at hfinish ⊢
  rw [hfinish]
  rfl

/-- A run of reads uses up its events and leaves the engine as it was (R61, R67). -/
theorem run_reads (offs : List (BitVec 8)) {s : State} {rest : List Event}
    (hi : s.inputs = offs.map busReadEvent ++ rest) :
    ∃ v, Sys2Proof.core.run offs.length s = .next v ∧ SameEngine s v ∧ v.inputs = rest := by
  induction offs generalizing s with
  | nil => exact ⟨s, rfl, rfl, hi⟩
  | cons off offs ih =>
    have hs : step s = .next (busRead off s).endStep := step_read hi
    have htail : (busRead off s).endStep.inputs = offs.map busReadEvent ++ rest := by
      rw [step_inputs hs, hi]
      rfl
    obtain ⟨v, hrun, hsame, hv⟩ := ih htail
    exact ⟨v, (run_succ_of_step _ hs).trans hrun, sameEngine_trans (sameEngine_read off s) hsame, hv⟩

/-- The completion after a run of reads is the completion at once, but for the model's own fields. -/
theorem run_reads_completion (offs : List (BitVec 8)) {s : State} {i : Instr} {rest : List Event} (h : Inv s)
    (hp : s.pend = some i) (hi : s.inputs = offs.map busReadEvent ++ .engine :: rest) :
    ∃ u, Sys2Proof.core.run (offs.length + 1) s = .next u ∧ SameEngine (effectOf i s).finish.endStep u ∧
      u.inputs = rest := by
  obtain ⟨v, hreads, hsame, hv⟩ := run_reads offs hi
  have hpv : v.pend = some i := by rw [hsame]; exact hp
  have hm : v.engineMoves = true := by simp [State.engineMoves, hv]
  have hs : step v = .next (effectOf i v).finish.endStep := step_completion (inv_of_sameEngine h hsame) hpv hm
  refine ⟨_, (run_add 1 hreads).trans (run_succ_of_step 0 hs), completion_sameEngine i hsame, ?_⟩
  rw [step_inputs hs, hv]
  rfl

theorem sameEngine_symm {s t : State} (h : SameEngine s t) : SameEngine t s := by
  unfold SameEngine at *
  rw [h]

/-- Settles O44: reads leave the engine as it was, and a completion looks at nothing but the engine. -/
theorem completionTimeDoesNotMatter : Obligations.CompletionTimeDoesNotMatter := by
  unfold Obligations.CompletionTimeDoesNotMatter
  intro s t u offs rest _ h hb hrt hru
  obtain ⟨i, hp⟩ := (busy_eq_true_iff s).1 hb
  obtain ⟨t', hrt', hsamet, hint⟩ := run_reads_completion [] (s := { s with inputs := .engine :: rest })
    (inv_of_sameEngine h rfl) hp rfl
  obtain ⟨u', hru', hsameu, hinu⟩ := run_reads_completion offs
    (s := { s with inputs := offs.map busReadEvent ++ .engine :: rest }) (inv_of_sameEngine h rfl) hp rfl
  obtain rfl := Host.Outcome.next.inj (hrt'.symm.trans hrt)
  obtain rfl := Host.Outcome.next.inj (hru'.symm.trans hru)
  have hstart : SameEngine { s with inputs := .engine :: rest }
      { s with inputs := offs.map busReadEvent ++ .engine :: rest } := rfl
  refine ⟨?_, hinu.trans hint.symm⟩
  exact sameEngine_trans (sameEngine_symm hsamet) (sameEngine_trans (completion_sameEngine i hstart) hsameu)

end Sys2Proof.Proofs

/-! Command words and their issue (spec 30_encoding.md R80 to R89): the decoder and the encoder agree, and a CMD write
makes its checks in their order. -/

namespace Sys2Proof.Proofs

open Sys2Proof Sys2Proof.Machine Sys2Proof.Laws

/-! ### The fields of a command word -/

theorem opField_toNat (w : Word) : (opField w).toNat = w.toNat % 16 := by
  simp [opField, BitVec.extractLsb'_toNat]

theorem nbytesField_toNat (w : Word) : (nbytesField w).toNat = w.toNat / 16 % 16 := by
  simp [nbytesField, BitVec.extractLsb'_toNat, Nat.shiftRight_eq_div_pow]

/-- The word of a command holds its opcode and its NBYTES, and is one the assembler writes (R80, R89). -/
theorem encodedFields (i : Instr) : EncodedFields.Statement i :=
  match i with
  | .nop => EncodedFields.nop
  | .startEnc => EncodedFields.startEnc
  | .startDec => EncodedFields.startDec
  | .encBlock => EncodedFields.encBlock
  | .encFinal n => EncodedFields.encFinal n
  | .decBlock => EncodedFields.decBlock
  | .decFinal => EncodedFields.decFinal
  | .rawEnc => EncodedFields.rawEnc
  | .rawDec => EncodedFields.rawDec
  | .loadChain => EncodedFields.loadChain
  | .abort => EncodedFields.abort

theorem opcode_eq_four_iff (i : Instr) : opcode i = 4 ↔ ∃ n, i = .encFinal n := by
  cases i with
  | encFinal n => exact ⟨fun _ => ⟨n, rfl⟩, fun _ => rfl⟩
  | _ => exact ⟨fun h => absurd h (by decide), fun ⟨_, h⟩ => by cases h⟩

theorem commandWordOk_iff (w : Word) :
    commandWordOk w = true ↔
      w.toNat < 256 ∧ (opField w).toNat ≤ 10 ∧ (opField w ≠ 4 → w.toNat < 16) := by
  have h4 : opField w = 4 ↔ w.toNat % 16 = 4 := by rw [← opField_toNat, BitVec.toNat_eq]; rfl
  simp only [commandWordOk, Bool.and_eq_true, Bool.or_eq_true, decide_eq_true_eq, and_assoc, opField_toNat, ne_eq, h4,
    Decidable.or_iff_not_imp_left]

/-- The assembler's words are told apart by OP and, for ENC_FINAL, by NBYTES: all their other bits are 0 (R80, R89). -/
theorem commandWord_ext {v w : Word} (hv : commandWordOk v = true) (hw : commandWordOk w = true)
    (hop : opField v = opField w) (hn : opField v = 4 → nbytesField v = nbytesField w) : v = w := by
  obtain ⟨hv256, -, hv16⟩ := (commandWordOk_iff v).1 hv
  obtain ⟨hw256, -, hw16⟩ := (commandWordOk_iff w).1 hw
  have hopNat := congrArg BitVec.toNat hop
  rw [opField_toNat, opField_toNat] at hopNat
  apply BitVec.eq_of_toNat_eq
  by_cases h4 : opField v = 4
  · have hnNat := congrArg BitVec.toNat (hn h4)
    rw [nbytesField_toNat, nbytesField_toNat] at hnNat
    omega
  · have hvSmall := hv16 h4
    have hwSmall := hw16 (hop ▸ h4)
    omega

/-! ### The decoder -/

/-- A word decodes to a command exactly if it carries the command's opcode and, for ENC_FINAL, its NBYTES (R82, R83). -/
theorem decode_eq_ok_iff (w : Word) (i : Instr) :
    decode w = .ok i ↔ opcode i = opField w ∧ ∀ n, i = .encFinal n → n = nbytesField w := by
  constructor
  · intro h
    unfold decode at h
    split at h <;> cases h
    all_goals
      rename_i hop
      exact ⟨BitVec.eq_of_toNat_eq hop.symm, by simp⟩
  · rintro ⟨hop, hn⟩
    cases i with
    | encFinal n => rw [hn n rfl, decode, ← hop]; rfl
    | _ => rw [decode, ← hop]; rfl

/-- A word is rejected exactly if its opcode is one of 11 to 15, and then by its opcode (R84). -/
theorem decode_eq_error_iff (w : Word) (e : DecodeError) :
    decode w = .error e ↔ 11 ≤ (opField w).toNat ∧ e = .illegalOp (opField w) := by
  unfold decode
  split
  case h_12 =>
    -- The default branch: none of the opcodes 0 to 10.
    have hlarge : 11 ≤ (opField w).toNat := by grind
    simp [hlarge, eq_comm]
  all_goals
    rename_i hop
    simp [hop]

theorem decode_encode (i : Instr) : decode (encode i) = .ok i := by
  obtain ⟨hop, hn, -⟩ := encodedFields i
  refine (decode_eq_ok_iff _ i).2 ⟨hop.symm, ?_⟩
  rintro n rfl
  exact hn.symm

/-- What the decoder drops of a word, the assembler writes as zeros (R83, R89). -/
theorem encode_of_decode {w : Word} {i : Instr} (hw : commandWordOk w = true) (hd : decode w = .ok i) :
    encode i = w := by
  obtain ⟨hopi, hni, hok⟩ := encodedFields i
  obtain ⟨hop, hn⟩ := (decode_eq_ok_iff w i).1 hd
  refine commandWord_ext hok hw (hopi.trans hop) fun h4 => ?_
  obtain ⟨n, rfl⟩ := (opcode_eq_four_iff i).1 (hopi.symm.trans h4)
  exact hni.trans (hn n rfl)

theorem exists_decode_of_op_le {w : Word} (h : (opField w).toNat ≤ 10) : ∃ i, decode w = .ok i := by
  cases hd : decode w with
  | ok i => exact ⟨i, rfl⟩
  | error e => have := ((decode_eq_error_iff w e).1 hd).1; omega

/-- Settles O1: the fields that the decoder reads are all that a command puts into its word, and all that the
assembler's words differ in. -/
theorem decodeEncodeAgree : Obligations.DecodeEncodeAgree := by
  unfold Obligations.DecodeEncodeAgree
  constructor
  · intro i _
    obtain ⟨-, -, hok⟩ := encodedFields i
    exact ⟨hok, decode_encode i⟩
  · intro w hw
    obtain ⟨i, hd⟩ := exists_decode_of_op_le ((commandWordOk_iff w).1 hw).2.1
    exact ⟨i, hd, encode_of_decode hw hd⟩

/-- Settles O2: both outcomes of the decoder are told by the two fields. -/
theorem decoderReadsOnlyOpAndNbytes : Obligations.DecoderReadsOnlyOpAndNbytes := by
  unfold Obligations.DecoderReadsOnlyOpAndNbytes
  intro v w (hop : opField v = opField w) (hn : opField v = 4 → nbytesField v = nbytesField w)
  symm
  cases hd : decode v with
  | ok i =>
    obtain ⟨hi, hni⟩ := (decode_eq_ok_iff v i).1 hd
    refine (decode_eq_ok_iff w i).2 ⟨hi.trans hop, ?_⟩
    rintro n rfl
    exact (hni n rfl).trans (hn hi.symm)
  | error e =>
    rw [decode_eq_error_iff, ← hop]
    exact (decode_eq_error_iff v e).1 hd

/-- Settles O3: the two outcomes of the decoder, by the opcode. -/
theorem opcodeDecidesTheCommand : Obligations.OpcodeDecidesTheCommand := by
  unfold Obligations.OpcodeDecidesTheCommand
  intro w
  constructor
  · intro h
    obtain ⟨i, hd⟩ := exists_decode_of_op_le h
    exact ⟨i, hd, (decode_eq_ok_iff w i).1 hd⟩
  · intro h
    exact (decode_eq_error_iff w _).2 ⟨h, rfl⟩

/-- Settles O4: seven words by their fields, and the eighth by its illegal opcode. -/
theorem wordsOfTheOpcodeTable : Obligations.WordsOfTheOpcodeTable := by
  unfold Obligations.WordsOfTheOpcodeTable
  simp only [decode_eq_ok_iff, decode_eq_error_iff]
  decide

/-! ### The issue of a command -/

theorem requireSession_eq_ite (q : Session) (s : State) :
    requireSession q s = if s.session ≠ q then some .seq else none := by
  rw [requireSession, ite_not]

theorem firstFailure_requireSession (q : Session) (s : State) (later : Option ErrCode) :
    firstFailure (requireSession q s) later = if s.session ≠ q then some .seq else later := by
  rw [requireSession_eq_ite]
  split <;> rfl

theorem firstFailure_requireRoom (s : State) (later : Option ErrCode) :
    firstFailure (requireRoom s) later = if 0xFFFFFFF0 ≤ s.msgLen.toNat then some .len else later := by
  unfold requireRoom State.len maxLen
  split <;> rfl

/-- A check with none after it is the first failure. -/
theorem firstFailure_none (c : Option ErrCode) : firstFailure c none = c := by cases c <;> rfl

/-- The pad byte's place, for the only alphabet that ENC_FINAL pads from the text (R153, R154). -/
theorem requirePadByte_alphabet (n : BitVec 4) (s : State) :
    requirePadByte s.alphabet.length n s =
      if s.alphaSel = true ∧ s.msgLen.toNat + n.toNat ≤ (16 - n.toNat) % Config.printAlpha.length then some .padRange
      else none := by
  cases ha : s.alphaSel with
  | false => simp [requirePadByte, ha]
  | true => simp [requirePadByte, ha, State.alphabet, alphabetOf, State.len, padOffset, padCount]

/-- The checks of ENC_BLOCK, DEC_BLOCK and DEC_FINAL in their order (R85). -/
theorem blockCheck_eq (q : Session) (s : State) :
    firstFailure (requireSession q s) (requireRoom s) =
      if s.session ≠ q then some .seq else if 0xFFFFFFF0 ≤ s.msgLen.toNat then some .len else none := by
  rw [← firstFailure_none (requireRoom s), firstFailure_requireSession, firstFailure_requireRoom]

/-- The checks of ENC_FINAL in their order (R85). -/
theorem encFinalCheck_eq (n : BitVec 4) (s : State) :
    encFinalCheck s.alphabet n s =
      if s.session ≠ .enc then some .seq
      else if 0xFFFFFFF0 ≤ s.msgLen.toNat then some .len
      else if s.alphaSel = true ∧ s.msgLen.toNat + n.toNat ≤ (16 - n.toNat) % Config.printAlpha.length then
        some .padRange
      else none := by
  rw [encFinalCheck, firstFailure_requireSession, firstFailure_requireRoom, requirePadByte_alphabet]

/-- The checks of a command other than NOP in the order of R85, by its opcode `op` and, for ENC_FINAL, its NBYTES
`n`. -/
theorem legality_eq_chain {i : Instr} {op n : Nat} (hi : i ≠ .nop) (hop : op = (opcode i).toNat)
    (hn : ∀ m, i = .encFinal m → n = m.toNat) (s : State) :
    legality i s =
      if (op = 1 ∨ op = 2) ∧ s.session ≠ .idle then some .seq
      else if (op = 3 ∨ op = 4) ∧ s.session ≠ .enc then some .seq
      else if (op = 5 ∨ op = 6) ∧ s.session ≠ .dec then some .seq
      else if (op = 3 ∨ op = 4 ∨ op = 5 ∨ op = 6) ∧ 0xFFFFFFF0 ≤ s.msgLen.toNat then some .len
      else if op = 4 ∧ s.alphaSel = true ∧ s.msgLen.toNat + n ≤ (16 - n) % Config.printAlpha.length then some .padRange
      else none := by
  subst hop
  cases i with
  | nop => exact absurd rfl hi
  | startEnc | startDec =>
    refine (requireSession_eq_ite _ s).trans ?_
    simp [opcode]
  | encBlock | decBlock | decFinal =>
    refine (blockCheck_eq _ s).trans ?_
    simp [opcode]
  | encFinal m =>
    obtain rfl := hn m rfl
    refine (encFinalCheck_eq m s).trans ?_
    simp [opcode]
  | rawEnc | rawDec | loadChain | abort => rfl

/-- In an engine that is not busy, the first check that fails is the error recorded (R85). -/
theorem issue_rejected {s : State} (hb : s.busy = false) (i : Instr) (c : ErrCode) :
    issue i (some c) s = recordError c s := by simp [issue, hb]

/-- In an engine that is not busy, a command that fails no check is accepted (R85). -/
theorem issue_accepted {s : State} (hb : s.busy = false) (i : Instr) : issue i none s = s.accept i := by
  simp [issue, hb]

/-- The step of a CMD write of NOP is over with its event (R182). -/
theorem step_cmdWrite_nop {s : State} {w : Word} {rest : List Event} (hr : s.rstN = true)
    (hi : s.inputs = cmdWrite w :: rest) (hd : decode w = .ok .nop) : step s = .next { s with inputs := rest } := by
  rw [step_cmdWrite hr hi, hd]
  show Host.Outcome.next s.endStep = _
  rw [State.endStep, hi]
  rfl

theorem engineMoves_cmdWrite {s : State} {w : Word} {rest : List Event} (hi : s.inputs = cmdWrite w :: rest) :
    s.engineMoves = false := by
  rw [State.engineMoves, hi]
  rfl

/-- The step of a CMD write of a command other than NOP is its issue (R85). -/
theorem step_cmdWrite_issue {s : State} {w : Word} {rest : List Event} {i : Instr} (hr : s.rstN = true)
    (hi : s.inputs = cmdWrite w :: rest) (hd : decode w = .ok i) (hn : i ≠ .nop) :
    step s = .next (issue i (legality i s) s).endStep := by
  rw [step_cmdWrite hr hi, hd]
  exact exec_host hn (engineMoves_cmdWrite hi)

/-- The step of a CMD write whose opcode is 11 to 15 records an error (R84, R85). -/
theorem step_cmdWrite_illegal {s : State} {w : Word} {rest : List Event} {e : DecodeError} (hr : s.rstN = true)
    (hi : s.inputs = cmdWrite w :: rest) (hd : decode w = .error e) :
    step s = .next (recordError (if s.busy then .busy else .illegal) s).endStep := by
  rw [step_cmdWrite hr hi, hd, ← issueIllegal_eq]

/-- Settles O6: an illegal word, NOP, and a command, whose checks are `legality_eq_chain`. -/
theorem cmdWriteIssuesInOrder : Obligations.CmdWriteIssuesInOrder := by
  unfold Obligations.CmdWriteIssuesInOrder
  intro s w rest hr hin op n reject
  have hreject (c : ErrCode) : (recordError c s).endStep = reject c := by
    rw [State.endStep, recordError_inputs, hin]
    exact recordError_inputs_eq c s rest
  cases hd : decode w with
  | error e =>
    have hop : 11 ≤ op := ((decode_eq_error_iff w e).1 hd).1
    have hop0 : op ≠ 0 := by omega
    rw [step_cmdWrite_illegal hr hin hd, hreject, if_neg hop0, if_pos hop]
    cases s.busy <;> rfl
  | ok i =>
    obtain ⟨hopi, hni⟩ := (decode_eq_ok_iff w i).1 hd
    have hop : op = (opcode i).toNat := congrArg BitVec.toNat hopi.symm
    have hn : ∀ m, i = .encFinal m → n = m.toNat := fun m hm => congrArg BitVec.toNat (hni m hm).symm
    by_cases hnop : i = .nop
    · subst hnop
      have hop0 : op = 0 := hop
      rw [step_cmdWrite_nop hr hin hd, if_pos hop0]
    obtain ⟨hpos, hle⟩ := opcode_range hnop
    have hop0 : op ≠ 0 := by omega
    have hop11 : ¬ 11 ≤ op := by omega
    rw [step_cmdWrite_issue hr hin hd hnop, if_neg hop0, if_neg hop11]
    cases hb : s.busy with
    | true => rw [issue_busy hb, hreject]; rfl
    | false =>
      have hrejected (c : ErrCode) : (issue i (some c) s).endStep = reject c := by rw [issue_rejected hb, hreject]
      have haccepted : (issue i none s).endStep = { s with pend := some i, inputs := rest } := by
        rw [issue_accepted hb, State.endStep, accept_inputs, hin]
        rfl
      rw [legality_eq_chain hnop hop hn, if_neg Bool.false_ne_true]
      clear_value op n
      congr 1
      split_ifs
      exacts [hrejected _, hrejected _, hrejected _, hrejected _, hrejected _, haccepted]

/-- A legal command's effect moves STATE by its row of the table (R181). -/
theorem effectOf_transition {i : Instr} (hi : i ≠ .nop) {s : State} (hl : legality i s = none) :
    Transition i s.session (effectOf i s).session := by
  unfold Transition
  cases i with
  | nop => exact absurd rfl hi
  | startEnc | startDec =>
    have hq : s.session = .idle := (requireSession_eq_none _ s).1 hl
    simp [effectOf, startEncEffect, startDecEffect, hq]
  | encBlock | encFinal | decBlock | decFinal =>
    have hq := (requireSession_eq_none _ s).1 ((firstFailure_eq_none _ _).1 hl).1
    simp [effectOf, hq]
  | rawEnc | rawDec | loadChain | abort => simp [effectOf, rawEncEffect, rawDecEffect]

/-- Out of reset, with no command in flight, a CMD write of a legal command puts it in flight (R85). -/
theorem step_cmdWrite_accepted {s : State} {i : Instr} {rest : List Event} (hi : i ≠ .nop) (hr : s.rstN = true)
    (hp : s.pend = none) (hl : legality i s = none) (hin : s.inputs = cmdWrite (encode i) :: rest) :
    step s = .next (s.accept i).endStep := by
  rw [step_cmdWrite_issue hr hin (decode_encode i) hi, hl, issue_accepted ((busy_eq_false_iff s).2 hp)]

/-- Settles O8: the CMD write accepts the command, and the engine's turn completes it. -/
theorem legalCommandRunsToCompletion : Obligations.LegalCommandRunsToCompletion := by
  unfold Obligations.LegalCommandRunsToCompletion
  intro s i rest hi hr hp hl hin
  have hissue : step s = .next (s.accept i).endStep := step_cmdWrite_accepted hi hr hp hl hin
  have hturn : (s.accept i).endStep.inputs = .engine :: rest := by rw [endStep_inputs, accept_inputs, hin]; rfl
  have hm : (s.accept i).endStep.engineMoves = true := by rw [State.engineMoves, hturn]
  have hcompletes : step (s.accept i).endStep = .next (effectOf i (s.accept i).endStep).finish.endStep := by
    rw [step_engine_of_pend (s := (s.accept i).endStep) hr hm rfl, exec_engine hi hm rfl]
  refine ⟨_, (run_succ_of_step 1 hissue).trans (run_succ_of_step 0 hcompletes), rfl, rfl, ?_, ?_⟩
  · rw [step_inputs hcompletes, hturn]
    rfl
  · exact effectOf_transition (s := (s.accept i).endStep) hi ((legality_congr i rfl rfl rfl).trans hl)

end Sys2Proof.Proofs

/-! The transforms (spec 40_transform.md R100 to R114): looking a byte up in an alphabet, the substitution, the
permutation, the block transform put together from them, and the two commands that run it. -/

namespace Sys2Proof.Proofs

open Sys2Proof Sys2Proof.Machine Sys2Proof.Laws

/-! ### Looking up a byte of an alphabet -/

theorem indexOf_eq_none_iff (A : List Byte) (b : Byte) : indexOf A b = none ↔ b ∉ A :=
  List.idxOf?_eq_none_iff

/-- The index that index_of finds is one where the byte stands (R101). -/
theorem getElem?_of_indexOf {A : List Byte} {b : Byte} {i : Nat} (h : indexOf A b = some i) : A[i]? = some b := by
  obtain ⟨hlt, hget, -⟩ := List.idxOf?_eq_some_iff.1 h
  exact List.getElem?_eq_some_iff.2 ⟨hlt, hget⟩

/-- Without duplicates, no other index holds the byte (R101). -/
theorem indexOf_eq_some_iff {A : List Byte} (hA : A.Nodup) (b : Byte) (i : Nat) :
    indexOf A b = some i ↔ A[i]? = some b := by
  refine ⟨getElem?_of_indexOf, fun h => ?_⟩
  obtain ⟨hlt, hget⟩ := List.getElem?_eq_some_iff.1 h
  refine List.idxOf?_eq_some_iff.2 ⟨hlt, hget, fun j hj hother => ?_⟩
  have hji : j = i := hA.getElem_inj_iff.1 (hother.trans hget.symm)
  omega

theorem byteAt_eq_getElem {A : List Byte} {i : Nat} (h : i < A.length) : byteAt A i = A[i] := by
  simp [byteAt, h]

/-- byte_at undoes index_of (R102). -/
theorem byteAt_of_indexOf {A : List Byte} {b : Byte} {i : Nat} (h : indexOf A b = some i) : byteAt A i = b := by
  obtain ⟨hlt, hget⟩ := List.getElem?_eq_some_iff.1 (getElem?_of_indexOf h)
  rw [byteAt_eq_getElem hlt, hget]

/-- index_of undoes byte_at in range (R101, R102). -/
theorem indexOf_byteAt {A : List Byte} (hA : A.Nodup) {i : Nat} (h : i < A.length) :
    indexOf A (byteAt A i) = some i := by
  rw [byteAt_eq_getElem h, indexOf_eq_some_iff hA, List.getElem?_eq_getElem h]

theorem byteAt_mem {A : List Byte} {i : Nat} (h : i < A.length) : byteAt A i ∈ A := by
  rw [byteAt_eq_getElem h]
  exact List.getElem_mem h

/-- The byte at index i of FULL is i (R103). -/
theorem byteAt_fullAlphabet {i : Nat} (h : i < 256) : byteAt fullAlphabet i = BitVec.ofNat 8 i := by
  rw [byteAt_eq_getElem (by rwa [fullAlphabet_length])]
  simp [fullAlphabet]

/-- The index of a byte of FULL is its value (R103). -/
theorem indexOf_fullAlphabet (b : Byte) : indexOf fullAlphabet b = some b.toNat := by
  have hlt : b.toNat < fullAlphabet.length := by rw [fullAlphabet_length]; exact b.isLt
  have hb : byteAt fullAlphabet b.toNat = b := by
    rw [byteAt_fullAlphabet b.isLt, BitVec.ofNat_toNat, BitVec.setWidth_eq]
  simpa only [hb] using indexOf_byteAt fullAlphabet_nodup hlt

/-- Settles O46: the four facts about index_of. -/
theorem alphabetLookup : Obligations.AlphabetLookup := by
  unfold Obligations.AlphabetLookup
  exact ⟨fun _ b i hA => indexOf_eq_some_iff hA b i, indexOf_eq_none_iff, fun _ _ _ => byteAt_of_indexOf,
    indexOf_fullAlphabet⟩

/-! ### Substitution -/

/-- The one conditional add of unrotate, in natural numbers (R105). -/
theorem unrotateIndex_eq_ite {N i : Nat} (k : Nat) (h : i < N) :
    unrotateIndex N i k = if i < k % N then i + N - k % N else i - k % N := by
  have hr : k % N < N := Nat.mod_lt _ (by omega)
  simp only [unrotateIndex]
  generalize k % N = r at hr ⊢
  split <;> split <;> omega

/-- The conditional add undoes the reduction mod N (R104, R105). -/
theorem unrotateIndex_rotateIndex {N i : Nat} (k : Nat) (h : i < N) :
    unrotateIndex N (rotateIndex N i k) k = i := by
  have hr : k % N < N := Nat.mod_lt _ (by omega)
  rw [rotateIndex, unrotateIndex_eq_ite k (Nat.mod_lt _ (by omega))]
  rcases Nat.lt_or_ge (i + k % N) N with hlt | hge
  · rw [Nat.mod_eq_of_lt hlt, if_neg (by omega), Nat.add_sub_cancel]
  · rw [Nat.mod_eq_sub_mod hge, Nat.mod_eq_of_lt (a := i + k % N - N) (by omega), if_pos (by omega)]
    omega

theorem rotateIndex_unrotateIndex {N i : Nat} (k : Nat) (h : i < N) :
    rotateIndex N (unrotateIndex N i k) k = i := by
  have hr : k % N < N := Nat.mod_lt _ (by omega)
  rw [unrotateIndex_eq_ite k h, rotateIndex]
  split
  · rw [Nat.sub_add_cancel (by omega), Nat.add_mod_right, Nat.mod_eq_of_lt h]
  · rw [Nat.sub_add_cancel (by omega), Nat.mod_eq_of_lt h]

/-- rotate passes through a byte outside A (R104, R202). -/
theorem rotate_of_not_mem {A : List Byte} {b : Byte} (h : b ∉ A) (k : Nat) : rotate A b k = b := by
  simp [rotate, (indexOf_eq_none_iff A b).2 h]

/-- unrotate passes through a byte outside A (R105, R202). -/
theorem unrotate_of_not_mem {A : List Byte} {b : Byte} (h : b ∉ A) (k : Nat) : unrotate A b k = b := by
  simp [unrotate, (indexOf_eq_none_iff A b).2 h]

theorem rotate_of_indexOf {A : List Byte} {b : Byte} {i : Nat} (h : indexOf A b = some i) (k : Nat) :
    rotate A b k = byteAt A (rotateIndex A.length i k) := by
  simp [rotate, h]

theorem unrotate_of_indexOf {A : List Byte} {b : Byte} {i : Nat} (h : indexOf A b = some i) (k : Nat) :
    unrotate A b k = byteAt A (unrotateIndex A.length i k) := by
  simp [unrotate, h]

/-- A byte is outside A, or index_of finds it there (R101). -/
theorem not_mem_or_indexOf (A : List Byte) (b : Byte) : b ∉ A ∨ ∃ i, indexOf A b = some i := by
  cases h : indexOf A b with
  | none => exact .inl ((indexOf_eq_none_iff A b).1 h)
  | some i => exact .inr ⟨i, rfl⟩

theorem mem_of_indexOf {A : List Byte} {b : Byte} {i : Nat} (h : indexOf A b = some i) : b ∈ A :=
  List.mem_of_getElem? (getElem?_of_indexOf h)

/-- unrotate undoes rotate (R106). -/
theorem unrotate_rotate {A : List Byte} (hA : A.Nodup) (b : Byte) (k : Nat) : unrotate A (rotate A b k) k = b := by
  rcases not_mem_or_indexOf A b with hb | ⟨i, hi⟩
  · rw [rotate_of_not_mem hb, unrotate_of_not_mem hb]
  · rw [rotate_of_indexOf hi, unrotate_of_indexOf (indexOf_byteAt hA (rotate_index_in_range k hi)),
      unrotateIndex_rotateIndex k (indexOf_lt hi), byteAt_of_indexOf hi]

/-- rotate undoes unrotate (R106). -/
theorem rotate_unrotate {A : List Byte} (hA : A.Nodup) (b : Byte) (k : Nat) : rotate A (unrotate A b k) k = b := by
  rcases not_mem_or_indexOf A b with hb | ⟨i, hi⟩
  · rw [unrotate_of_not_mem hb, rotate_of_not_mem hb]
  · rw [unrotate_of_indexOf hi, rotate_of_indexOf (indexOf_byteAt hA (unrotate_index_in_range k hi)),
      rotateIndex_unrotateIndex k (indexOf_lt hi), byteAt_of_indexOf hi]

/-- rotate keeps A and its complement (R106). -/
theorem rotate_mem_iff (A : List Byte) (b : Byte) (k : Nat) : rotate A b k ∈ A ↔ b ∈ A := by
  rcases not_mem_or_indexOf A b with hb | ⟨i, hi⟩
  · rw [rotate_of_not_mem hb]
  · rw [rotate_of_indexOf hi]
    exact iff_of_true (byteAt_mem (rotate_index_in_range k hi)) (mem_of_indexOf hi)

/-- rotate reads the key mod N alone (R106). -/
theorem rotate_congr {A : List Byte} (b : Byte) {k k' : Nat} (h : k % A.length = k' % A.length) :
    rotate A b k = rotate A b k' := by
  simp only [rotate, rotateIndex, h]

theorem rotate_zero (A : List Byte) (b : Byte) : rotate A b 0 = b := by
  rcases not_mem_or_indexOf A b with hb | ⟨i, hi⟩
  · exact rotate_of_not_mem hb 0
  · have hindex : rotateIndex A.length i 0 = i := by simp [rotateIndex, Nat.mod_eq_of_lt (indexOf_lt hi)]
    rw [rotate_of_indexOf hi, hindex, byteAt_of_indexOf hi]

/-- Keys that N divides leave every byte as it is (R106). -/
theorem rotate_of_mod_eq_zero {A : List Byte} (b : Byte) {k : Nat} (h : k % A.length = 0) : rotate A b k = b := by
  rw [rotate_congr (k' := 0) b (by rw [h, Nat.zero_mod]), rotate_zero]

theorem unrotate_of_mod_eq_zero {A : List Byte} (hA : A.Nodup) (b : Byte) {k : Nat} (h : k % A.length = 0) :
    unrotate A b k = b := by
  have hundo := rotate_unrotate hA b k
  rwa [rotate_of_mod_eq_zero _ h] at hundo

/-- Settles O47: the laws above, and N = 1, which divides every key. -/
theorem substitutionLaws : Obligations.SubstitutionLaws := by
  unfold Obligations.SubstitutionLaws
  intro A b k hA _
  refine ⟨⟨unrotate_rotate hA b k, rotate_unrotate hA b k⟩,
    fun hb => ⟨rotate_of_not_mem hb k, unrotate_of_not_mem hb k⟩, (rotate_mem_iff A b k).symm,
    fun _ => rotate_congr b, rotate_zero A b, rotate_of_mod_eq_zero b (Nat.mod_self _), fun hN => ?_⟩
  have hk : k % A.length = 0 := by rw [hN, Nat.mod_one]
  exact ⟨rotate_of_mod_eq_zero b hk, unrotate_of_mod_eq_zero hA b hk⟩

/-- Under FULL, rotate adds the key to the byte (R107). -/
theorem rotate_fullAlphabet (b : Byte) (k : Nat) : rotate fullAlphabet b k = b + BitVec.ofNat 8 k := by
  rw [rotate_of_indexOf (indexOf_fullAlphabet b), rotateIndex, fullAlphabet_length,
    byteAt_fullAlphabet (Nat.mod_lt _ (by decide))]
  apply BitVec.eq_of_toNat_eq
  simp

/-- Under FULL, unrotate subtracts the key: it undoes the addition (R106, R107). -/
theorem unrotate_fullAlphabet (b : Byte) (k : Nat) : unrotate fullAlphabet b k = b - BitVec.ofNat 8 k := by
  have hsum : rotate fullAlphabet (b - BitVec.ofNat 8 k) k = b := by
    rw [rotate_fullAlphabet, BitVec.sub_add_cancel]
  have hundo := unrotate_rotate fullAlphabet_nodup (b - BitVec.ofNat 8 k) k
  rwa [hsum] at hundo

/-- The low byte of a word is its number mod 256 (R107: KEY[7:0]). -/
theorem ofNat_toNat_eq_lowByte (k : Word) : BitVec.ofNat 8 k.toNat = k.extractLsb' 0 8 := by
  apply BitVec.eq_of_toNat_eq
  simp

/-- Settles O48: the closed forms for any key, and the low byte of a 32-bit key. -/
theorem fullAlphabetClosedForm : Obligations.FullAlphabetClosedForm := by
  unfold Obligations.FullAlphabetClosedForm
  refine ⟨fun b k => ⟨rotate_fullAlphabet b k, unrotate_fullAlphabet b k⟩, fun b k => ?_⟩
  rw [← ofNat_toNat_eq_lowByte]
  exact ⟨rotate_fullAlphabet b k.toNat, unrotate_fullAlphabet b k.toNat⟩

/-! ### Permutation -/

/-- unshift undoes shift, place by place (R110). -/
theorem unshift_shift (B : Block) (k : Nat) : unshift (shift B k) k = B := by
  refine Vector.ext fun j hj => ?_
  have hplace : ((j + 16 - k % 16) % 16 + k % 16) % 16 = j := by omega
  simp only [unshift_getElem, shift_getElem, hplace]

theorem shift_unshift (B : Block) (k : Nat) : shift (unshift B k) k = B := by
  refine Vector.ext fun j hj => ?_
  have hplace : ((j + k % 16) % 16 + 16 - k % 16) % 16 = j := by omega
  simp only [unshift_getElem, shift_getElem, hplace]

/-- shift reads the key mod 16 alone (R110). -/
theorem shift_congr (B : Block) {k k' : Nat} (h : k % 16 = k' % 16) : shift B k = shift B k' := by
  simp only [shift, h]

/-- Keys that 16 divides move nothing (R110). -/
theorem shift_of_mod_eq_zero (B : Block) {k : Nat} (h : k % 16 = 0) : shift B k = B := by
  refine Vector.ext fun j hj => ?_
  simp only [shift_getElem, h, Nat.add_zero, Nat.mod_eq_of_lt hj]

/-- shift is the library's left rotation of the list of bytes (R108). -/
theorem shift_toList (B : Block) (k : Nat) : (shift B k).toList = B.toList.rotate k := by
  refine List.ext_getElem (by simp) fun j hj _ => ?_
  simp [List.getElem_rotate]

theorem shift_perm (B : Block) (k : Nat) : (shift B k).toList.Perm B.toList := by
  rw [shift_toList]
  exact List.rotate_perm _ _

/-- Settles O49: the five laws of shift. -/
theorem permutationLaws : Obligations.PermutationLaws := by
  unfold Obligations.PermutationLaws
  intro B k
  exact ⟨unshift_shift B k, shift_unshift B k, fun _ => shift_congr B,
    fun m => shift_of_mod_eq_zero B (Nat.mul_mod_right 16 m), shift_perm B k⟩

/-! ### The block transform -/

theorem unrotateEach_rotateEach {A : List Byte} (hA : A.Nodup) (B : Block) (k : Nat) :
    unrotateEach A (rotateEach A B k) k = B := by
  refine Vector.ext fun j hj => ?_
  simp only [unrotateEach_getElem, rotateEach_getElem, unrotate_rotate hA]

theorem rotateEach_congr {A : List Byte} (B : Block) {k k' : Nat} (h : k % A.length = k' % A.length) :
    rotateEach A B k = rotateEach A B k' := by
  simp only [rotateEach, rotate_congr _ h]

/-- Moving bytes and substituting each of them commute (R112). -/
theorem shift_rotateEach (A : List Byte) (B : Block) (k : Nat) :
    shift (rotateEach A B k) k = rotateEach A (shift B k) k :=
  Vector.ext fun j hj => by simp only [shift_getElem, rotateEach_getElem]

theorem unrotateEach_unshift (A : List Byte) (B : Block) (k : Nat) :
    unrotateEach A (unshift B k) k = unshift (unrotateEach A B k) k :=
  Vector.ext fun j hj => by simp only [unshift_getElem, unrotateEach_getElem]

/-- decrypt_block undoes encrypt_block: first the shift, then the substitution (R112). -/
theorem decryptBlock_encryptBlock {A : List Byte} (hA : A.Nodup) (B : Block) (k : Nat) :
    decryptBlock A (encryptBlock A B k) k = B := by
  rw [decryptBlock, encryptBlock, unshift_shift, unrotateEach_rotateEach hA]

/-- encrypt_block reads the key through its residues mod N and mod 16 (R112). -/
theorem encryptBlock_congr {A : List Byte} (B : Block) {k k' : Nat} (hN : k % A.length = k' % A.length)
    (h16 : k % 16 = k' % 16) : encryptBlock A B k = encryptBlock A B k' := by
  rw [encryptBlock, encryptBlock, rotateEach_congr B hN, shift_congr _ h16]

/-- A modulus that N and 16 divide is enough of the key for encrypt_block (R112). -/
theorem encryptBlock_congr_of_dvd {A : List Byte} (B : Block) {k k' m : Nat} (hN : A.length ∣ m) (h16 : 16 ∣ m)
    (h : k % m = k' % m) : encryptBlock A B k = encryptBlock A B k' :=
  encryptBlock_congr B (Nat.ModEq.of_dvd hN h) (Nat.ModEq.of_dvd h16 h)

/-- Settles O50: the laws above; lcm(N, 16) and, under FULL, 256 are moduli that N and 16 divide. -/
theorem blockTransformLaws : Obligations.BlockTransformLaws := by
  unfold Obligations.BlockTransformLaws
  intro A B k hA _
  exact ⟨rfl, shift_rotateEach A B k, unrotateEach_unshift A B k, decryptBlock_encryptBlock hA B k,
    fun _ => encryptBlock_congr B,
    fun _ => encryptBlock_congr_of_dvd B (Nat.dvd_lcm_left _ _) (Nat.dvd_lcm_right _ _),
    fun _ => encryptBlock_congr_of_dvd B (by rw [fullAlphabet_length]) (by decide)⟩

/-! ### RAW_ENC and RAW_DEC -/

/-- Settles O16: each completion is the effect, which writes DOUT, and what every completion ends with (R87). -/
theorem rawCommandsComplete : Obligations.RawCommandsComplete := by
  unfold Obligations.RawCommandsComplete
  intro s hm
  constructor
  · intro hp
    have hcompletes : exec .rawEnc s = .next (rawEncEffect s.alphabet s).finish.endStep :=
      exec_engine (by decide) hm hp
    exact hcompletes
  · intro hp
    have hcompletes : exec .rawDec s = .next (rawDecEffect s.alphabet s).finish.endStep :=
      exec_engine (by decide) hm hp
    exact hcompletes

end Sys2Proof.Proofs

/-! Chaining (spec 41_chaining.md R130 to R136): the laws of merge, the recurrences of CBC over a message and how far one
changed ciphertext block reaches, and the completions of ENC_BLOCK, DEC_BLOCK, LOAD_CHAIN and ABORT. -/

namespace Sys2Proof.Proofs

open Sys2Proof Sys2Proof.Machine Sys2Proof.Laws

/-! ### merge -/

theorem merge_comm (a b : Block) : merge a b = merge b a :=
  Vector.ext fun j hj => by rw [merge_getElem, merge_getElem, BitVec.xor_comm]

theorem merge_merge_right (a b : Block) : merge (merge a b) b = a :=
  Vector.ext fun j hj => by rw [merge_getElem, merge_getElem, BitVec.xor_assoc, BitVec.xor_self, BitVec.xor_zero]

/-- Settles O51: byte by byte, the laws of XOR. -/
theorem mergeLaws : Obligations.MergeLaws := by
  unfold Obligations.MergeLaws
  intro a b
  exact ⟨fun j => merge_getElem a b j.val j.isLt, merge_comm a b, merge_merge_right a b⟩

/-! ### CBC over the blocks of a message -/

/-- Each ciphertext block chains from the one before it, the IV before the first (R131): by induction on the plaintext
blocks, from any chaining block. -/
theorem cbcEncrypt_getElem? {A : List Byte} {k : Nat} {iv : Block} {ps : List Block} {i : Nat} {p prev : Block}
    (hp : ps[i]? = some p) (hprev : (iv :: cbcEncrypt A k iv ps)[i]? = some prev) :
    (cbcEncrypt A k iv ps)[i]? = some (encryptBlock A (merge prev p) k) := by
  induction ps generalizing iv i with
  | nil => cases hp
  | cons q qs ih =>
    cases i with
    | zero =>
      obtain rfl : q = p := Option.some.inj hp
      obtain rfl : iv = prev := Option.some.inj hprev
      rfl
    | succ i => exact ih (iv := encryptBlock A (merge iv q) k) hp hprev

/-- Decryption takes each ciphertext block with the one before it, and nothing else (R131, R136): the ciphertext
zipped with itself, shifted by the IV. -/
theorem cbcDecrypt_eq_zipWith (A : List Byte) (k : Nat) (iv : Block) (cs : List Block) :
    cbcDecrypt A k iv cs = List.zipWith (fun prev c => merge prev (decryptBlock A c k)) (iv :: cs) cs := by
  induction cs generalizing iv with
  | nil => rfl
  | cons c cs ih => rw [cbcDecrypt, ih, List.zipWith_cons_cons]

theorem cbcDecrypt_getElem? {A : List Byte} {k : Nat} {iv : Block} {cs : List Block} {i : Nat} {c prev : Block}
    (hc : cs[i]? = some c) (hprev : (iv :: cs)[i]? = some prev) :
    (cbcDecrypt A k iv cs)[i]? = some (merge prev (decryptBlock A c k)) := by
  rw [cbcDecrypt_eq_zipWith, List.getElem?_zipWith, hprev, hc]

/-- Two ciphertexts that agree at block j and at the one before it decrypt alike there (R136). -/
theorem cbcDecrypt_getElem?_congr {A : List Byte} {k : Nat} {iv : Block} {cs ds : List Block} {j : Nat}
    (hprev : (iv :: cs)[j]? = (iv :: ds)[j]?) (hj : cs[j]? = ds[j]?) :
    (cbcDecrypt A k iv cs)[j]? = (cbcDecrypt A k iv ds)[j]? := by
  rw [cbcDecrypt_eq_zipWith, cbcDecrypt_eq_zipWith, List.getElem?_zipWith, List.getElem?_zipWith, hprev, hj]

/-- Settles O52: one recurrence for each direction. -/
theorem cbcRecurrences : Obligations.CbcRecurrences := by
  unfold Obligations.CbcRecurrences
  intro A k iv bs i b hb
  exact ⟨fun _ => cbcEncrypt_getElem? hb, fun _ => cbcDecrypt_getElem? hb⟩

/-- Settles O53: plaintext block j looks at the ciphertext blocks j and j - 1 only, and neither is block i. -/
theorem cbcErrorPropagation : Obligations.CbcErrorPropagation := by
  unfold Obligations.CbcErrorPropagation
  intro A k iv x cs i j hi hi1
  have hown : (cs.set i x)[j]? = cs[j]? := List.getElem?_set_ne hi.symm
  have hprev : (iv :: cs.set i x)[j]? = (iv :: cs)[j]? := by
    rw [← List.set_cons_succ, List.getElem?_set_ne hi1.symm]
  exact cbcDecrypt_getElem?_congr hprev hown

/-! ### The commands of the chain -/

/-- Settles O11: the completion is ENC_BLOCK's effect, whose HEAD is the head capture of R36. -/
theorem encBlockCompletes : Obligations.EncBlockCompletes := by
  unfold Obligations.EncBlockCompletes
  intro s hm hp
  have hhead (q : Fin 17) := captureHead_getElem s.len (blk s.din) s.head q.val q.isLt
  have hcompletes : exec .encBlock s = .next (encBlockEffect s.alphabet s).finish.endStep :=
    exec_engine (by decide) hm hp
  exact ⟨captureHead s.len (blk s.din) s.head, hhead, hcompletes⟩

/-- Settles O14: the completion is DEC_BLOCK's effect, which chains from DIN. -/
theorem decBlockCompletes : Obligations.DecBlockCompletes := by
  unfold Obligations.DecBlockCompletes
  intro s hm hp
  have hcompletes : exec .decBlock s = .next (decBlockEffect s.alphabet s).finish.endStep :=
    exec_engine (by decide) hm hp
  exact hcompletes

/-- Settles O17: LOAD_CHAIN's effect writes CHAIN, ABORT's writes STATE. -/
theorem loadChainAndAbortComplete : Obligations.LoadChainAndAbortComplete := by
  unfold Obligations.LoadChainAndAbortComplete
  intro s hm
  constructor
  · intro hp
    have hcompletes : exec .loadChain s = .next (loadChainEffect s).finish.endStep := exec_engine (by decide) hm hp
    exact hcompletes
  · intro hp
    have hcompletes : exec .abort s = .next (abortEffect s).finish.endStep := exec_engine (by decide) hm hp
    exact hcompletes

end Sys2Proof.Proofs

/-! Padding (spec 42_padding.md R150 to R163): the length of a padded text, the texts without a pad byte, where ENC_FINAL
takes its pad byte from and what of DIN it looks at, and the completions of ENC_FINAL and DEC_FINAL. -/

namespace Sys2Proof.Proofs

open Sys2Proof Sys2Proof.Machine Sys2Proof.Laws

/-! ### The text-level pad -/

/-- Both variants append 16 - L mod 16 copies of one byte (R151, R155). -/
theorem padText_eq_append {variantB : Bool} {A t u : List Byte} (h : padText variantB A t = some u) :
    ∃ pb, u = t ++ List.replicate (16 - t.length % 16) pb := by
  cases variantB with
  | false => exact ⟨_, (Option.some.inj h).symm⟩
  | true =>
    obtain ⟨pb, _, hu⟩ := Option.map_eq_some_iff.1 h
    exact ⟨pb, hu.symm⟩

theorem length_padText {variantB : Bool} {A t u : List Byte} (h : padText variantB A t = some u) :
    u.length = t.length + (16 - t.length % 16) := by
  obtain ⟨pb, rfl⟩ := padText_eq_append h
  rw [List.length_append, List.length_replicate]

/-- Settles O54: the pad fills the text's last block up, or adds one where there is nothing to fill. -/
theorem paddingLengthInvariant : Obligations.PaddingLengthInvariant := by
  unfold Obligations.PaddingLengthInvariant
  intro variantB A t u h
  have hlen := length_padText h
  omega

/-! ### The pad offset and its check -/

theorem requirePadByte_eq_some_iff (np : Nat) (n : BitVec 4) (s : State) :
    requirePadByte np n s = some .padRange ↔ s.alphaSel = true ∧ s.msgLen.toNat + n.toNat ≤ padOffset np n := by
  rw [requirePadByte, ite_eq_left_iff, not_imp_comm]
  simp [State.len]

/-- With an alphabet of more than 16 bytes the offset is the pad count itself (R154). -/
theorem padOffset_of_lt {np : Nat} (h : 16 < np) (n : BitVec 4) : padOffset np n = 16 - n.toNat :=
  Nat.mod_eq_of_lt (lt_of_le_of_lt (Nat.sub_le _ _) h)

/-- Settles O55: the check compares L with the pad count 16 - n, and MSGLEN = L - n counts whole blocks. -/
theorem padRangeRejectsShortTexts : Obligations.PadRangeRejectsShortTexts := by
  unfold Obligations.PadRangeRejectsShortTexts
  intro s np n hnp ha haligned
  have hn : n.toNat < 16 := n.isLt
  rw [requirePadByte_eq_some_iff, and_iff_right ha, padOffset_of_lt hnp]
  omega

/-- What a legal ENC_FINAL under the printable alphabet knows of its offset: a byte of the text stands there (R154). -/
theorem padOffset_lt_of_legality {s : State} {n : BitVec 4} (h : legality (.encFinal n) s = none)
    (ha : s.alphaSel = true) : padOffset s.alphabet.length n < s.msgLen.toNat + n.toNat := by
  obtain ⟨_, hrest⟩ := (firstFailure_eq_none _ _).1 h
  obtain ⟨_, hpad⟩ := (firstFailure_eq_none _ _).1 hrest
  exact (requirePadByte_eq_none _ n s).1 hpad ha

/-! ### The pad byte -/

/-- Variant (a) pads with the count: it is at most 16, and `mod 256` leaves it as it is (R152). -/
theorem padByteFull_eq (n : BitVec 4) : padByteFull n = BitVec.ofNat 8 (16 - n.toNat) :=
  congrArg (BitVec.ofNat 8) (Nat.mod_eq_of_lt (lt_of_le_of_lt (Nat.sub_le _ _) (by decide)))

theorem padByteOf_full {s : State} (ha : s.alphaSel = false) (A : List Byte) (n : BitVec 4) :
    padByteOf A n s = padByteFull n := by simp [padByteOf, ha]

theorem padByteOf_text {s : State} (ha : s.alphaSel = true) (A : List Byte) (n : BitVec 4) :
    padByteOf A n s = padByteText (padOffset A.length n) s := by simp [padByteOf, ha]

theorem padByteText_head {o : Nat} {s : State} (h : o < s.msgLen.toNat) :
    padByteText o s = s.head[o]?.getD (Config.noSuchByte o) := if_pos h

theorem padByteText_din {o : Nat} {s : State} (h : s.msgLen.toNat ≤ o) :
    padByteText o s = (blk s.din)[o - s.msgLen.toNat]?.getD (Config.noSuchByte o) := if_neg (Nat.not_lt.2 h)

/-- The byte that stands at offset o of the text, in HEAD or in DIN, is the one ENC_FINAL finds (R153). -/
theorem padByteText_eq {o : Nat} {s : State} {pb : Byte} (hhead : o < s.msgLen.toNat → s.head[o]? = some pb)
    (hdin : s.msgLen.toNat ≤ o → (blk s.din)[o - s.msgLen.toNat]? = some pb) : padByteText o s = pb := by
  rcases Nat.lt_or_ge o s.msgLen.toNat with ho | ho
  · rw [padByteText_head ho, hhead ho, Option.getD_some]
  · rw [padByteText_din ho, hdin ho, Option.getD_some]

/-! ### The bytes of DIN that ENC_FINAL looks at -/

/-- Two contents of DIN hold the same first n bytes. -/
def SameBytesBelow (n : BitVec 4) (d e : RegGroup) : Prop := ∀ j : Fin 16, j.val < n.toNat → (blk d)[j] = (blk e)[j]

theorem SameBytesBelow.getElem? {n : BitVec 4} {d e : RegGroup} (h : SameBytesBelow n d e) {j : Nat}
    (hj : j < n.toNat) : (blk d)[j]? = (blk e)[j]? := by
  have h16 : j < 16 := lt_trans hj n.isLt
  rw [Vector.getElem?_eq_getElem h16, Vector.getElem?_eq_getElem h16]
  exact congrArg some (h ⟨j, h16⟩ hj)

theorem paddedBlock_congr {n : BitVec 4} {d e : RegGroup} (h : SameBytesBelow n d e) (pb : Byte) :
    paddedBlock n pb (blk d) = paddedBlock n pb (blk e) := by
  refine Vector.ext fun j hj => ?_
  rw [paddedBlock_getElem, paddedBlock_getElem]
  exact ite_congr rfl (h ⟨j, hj⟩) fun _ => rfl

/-- An offset inside the text lies in HEAD or below n in DIN, so the pad byte depends on these and on MSGLEN alone. -/
theorem padByteText_congr {s t : State} {n : BitVec 4} (hd : SameBytesBelow n t.din s.din) (hm : t.msgLen = s.msgLen)
    (hh : t.head = s.head) {o : Nat} (ho : o < s.msgLen.toNat + n.toNat) : padByteText o t = padByteText o s := by
  rcases Nat.lt_or_ge o s.msgLen.toNat with hhead | hdin
  · rw [padByteText_head hhead, padByteText_head (hm ▸ hhead), hh]
  · have hn : o - s.msgLen.toNat < n.toNat := by omega
    rw [padByteText_din hdin, padByteText_din (hm ▸ hdin), hm, hd.getElem? hn]

/-- The pad byte of a legal ENC_FINAL depends on CTRL, MSGLEN, HEAD and the first n bytes of DIN (R150, R153). -/
theorem padByteOf_congr {s t : State} {n : BitVec 4} (hd : SameBytesBelow n t.din s.din) (hm : t.msgLen = s.msgLen)
    (hh : t.head = s.head) (ha : t.alphaSel = s.alphaSel) (hl : legality (.encFinal n) s = none) :
    padByteOf s.alphabet n t = padByteOf s.alphabet n s := by
  cases hs : s.alphaSel with
  | false => rw [padByteOf_full hs, padByteOf_full (ha.trans hs)]
  | true =>
    rw [padByteOf_text hs, padByteOf_text (ha.trans hs), padByteText_congr hd hm hh (padOffset_lt_of_legality hl hs)]

/-! ### The completion of ENC_FINAL -/

/-- What ENC_FINAL leaves when its pad byte is pb (R162). -/
def encFinalWith (A : List Byte) (n : BitVec 4) (pb : Byte) (s : State) : State :=
  { s with
    dout := pack (s.chainEncrypt A (paddedBlock n pb (blk s.din)))
    chain := pack (s.chainEncrypt A (paddedBlock n pb (blk s.din)))
    msgLen := s.nextLen
    outLen := s.nextLen
    padInfo := { padCnt := BitVec.ofNat 8 (padCount n), padByte := pb, unpadSkipped := false }
    session := .idle }

theorem encFinalEffect_eq (A : List Byte) (n : BitVec 4) (s : State) :
    encFinalEffect A n s = encFinalWith A n (padByteOf A n s) s := rfl

theorem exec_encFinal_engine {s : State} {n : BitVec 4} (hm : s.engineMoves = true)
    (hp : s.pend = some (.encFinal n)) :
    exec (.encFinal n) s = .next (encFinalWith s.alphabet n (padByteOf s.alphabet n s) s).finish.endStep := by
  rw [← encFinalEffect_eq]
  exact exec_engine (by simp) hm hp

theorem alphabet_full {s : State} (ha : s.alphaSel = false) : s.alphabet = fullAlphabet := by
  simp [State.alphabet, alphabetOf, ha]

theorem alphabet_printable {s : State} (ha : s.alphaSel = true) : s.alphabet = Config.printAlpha := by
  simp [State.alphabet, alphabetOf, ha]

/-- Settles O12: the pad byte is the count (R152). -/
theorem encFinalFullCompletes : Obligations.EncFinalFullCompletes := by
  unfold Obligations.EncFinalFullCompletes
  intro s n hm hp ha
  have hcompletes := exec_encFinal_engine hm hp
  rw [alphabet_full ha, padByteOf_full ha, padByteFull_eq] at hcompletes
  exact hcompletes

/-- Settles O13: the pad byte is the one at the offset o of the text (R153). -/
theorem encFinalTextCompletes : Obligations.EncFinalTextCompletes := by
  unfold Obligations.EncFinalTextCompletes
  intro s n pb hm hp ha o hhead hdin
  have hpb : padByteText (padOffset Config.printAlpha.length n) s = pb :=
    padByteText_eq hhead fun ho => (hdin ho).2
  have hcompletes := exec_encFinal_engine hm hp
  rw [alphabet_printable ha, padByteOf_text ha, hpb] at hcompletes
  exact hcompletes

theorem encFinalWith_din (A : List Byte) (pb : Byte) {s : State} {n : BitVec 4} {d : RegGroup}
    (h : SameBytesBelow n d s.din) :
    encFinalWith A n pb { s with din := d } = { encFinalWith A n pb s with din := d } := by
  unfold encFinalWith
  rw [paddedBlock_congr h]
  rfl

/-- Settles O18: neither the pad byte nor the padded block looks at DIN from byte n on. -/
theorem encFinalIgnoresDinTail : Obligations.EncFinalIgnoresDinTail := by
  unfold Obligations.EncFinalIgnoresDinTail
  intro s t n d hm hp hl hd hexec
  rw [exec_encFinal_engine hm hp] at hexec
  obtain rfl := Host.Outcome.next.inj hexec
  have hcompletes := exec_encFinal_engine (s := { s with din := d }) hm hp
  have hA : ({ s with din := d } : State).alphabet = s.alphabet := rfl
  have hpb : padByteOf s.alphabet n { s with din := d } = padByteOf s.alphabet n s :=
    padByteOf_congr hd rfl rfl rfl hl
  rw [hA, hpb, encFinalWith_din _ _ hd] at hcompletes
  exact hcompletes

/-! ### The completion of DEC_FINAL -/

/-- A count that fits the text: the report cuts it off (R160). -/
theorem reportUnpad_of_le {T : Word} {last : Byte} (h : last.toNat ≤ T.toNat) (s : State) :
    reportUnpad T last s =
      { s with
        padInfo := { padCnt := last, padByte := last, unpadSkipped := false }
        outLen := T - last.setWidth 32 } := by
  simp [reportUnpad, unpadLen, h]

/-- A count that exceeds the text: the report is empty, with E_BAD_PAD (R160). -/
theorem reportUnpad_of_not_le {T : Word} {last : Byte} (h : ¬ last.toNat ≤ T.toNat) (s : State) :
    reportUnpad T last s =
      { s with
        padInfo := { padCnt := last, padByte := last, unpadSkipped := false }
        outLen := 0
        err := firstError s.err .badPad } := by
  simp [reportUnpad, unpadLen, h]

theorem decFinalEffect_skips {s : State} (ha : s.alphaSel = true) (A : List Byte) :
    decFinalEffect A s = skipUnpad s.nextLen (decFinalBeforeReport A s) := by
  rw [decFinalEffect_eq, if_pos ha]

theorem decFinalEffect_reports {s : State} (ha : s.alphaSel = false) {A : List Byte} {last : Byte}
    (hlast : (s.chainDecrypt A)[15] = last) :
    decFinalEffect A s = reportUnpad s.nextLen last (decFinalBeforeReport A s) := by
  rw [decFinalEffect_eq, if_neg (ne_true_of_eq_false ha), hlast]

/-- Settles O15: no unpad under the printable alphabet; under the full one the report by whether the count fits. -/
theorem decFinalCompletes : Obligations.DecFinalCompletes := by
  unfold Obligations.DecFinalCompletes
  intro s hm hp p T last t
  have hlast : (s.chainDecrypt s.alphabet)[15] = last := rfl
  have hcompletes : exec .decFinal s = .next (decFinalEffect s.alphabet s).finish.endStep :=
    exec_engine (by decide) hm hp
  rw [hcompletes]
  by_cases ha : s.alphaSel = true
  · rw [if_pos ha, decFinalEffect_skips ha]
    rfl
  · rw [if_neg ha, decFinalEffect_reports (eq_false_of_ne_true ha) hlast]
    by_cases hfits : last.toNat ≤ T.toNat
    · rw [if_pos hfits, reportUnpad_of_le (T := s.nextLen) hfits]
      rfl
    · rw [if_neg hfits, reportUnpad_of_not_le (T := s.nextLen) hfits]
      rfl

end Sys2Proof.Proofs

/-! Session control (spec 43_pipeline.md R180 to R185): NOP, the commands that open a session, and how STATE moves over one
step. -/

namespace Sys2Proof.Proofs

open Sys2Proof Sys2Proof.Machine Sys2Proof.Laws

/-- Settles O9: OP = 0 is NOP's opcode and NOP has no NBYTES, and its step is the end of its event. -/
theorem nopHasNoEffect : Obligations.NopHasNoEffect := by
  unfold Obligations.NopHasNoEffect
  constructor
  · intro w hop
    exact (decode_eq_ok_iff w .nop).2 ⟨hop.symm, fun n hn => by cases hn⟩
  · intro s
    rfl

/-- Settles O10: both completions are `openSession`, with the session that the command opens. -/
theorem sessionOpens : Obligations.SessionOpens := by
  unfold Obligations.SessionOpens
  intro s i q hiq hm hp
  rcases hiq with ⟨rfl, rfl⟩ | ⟨rfl, rfl⟩
  · have hcompletes : exec .startEnc s = .next (openSession .enc s).finish.endStep := exec_engine (by decide) hm hp
    exact hcompletes
  · have hcompletes : exec .startDec s = .next (openSession .dec s).finish.endStep := exec_engine (by decide) hm hp
    exact hcompletes

/-- A completion in a legal state moves STATE by a row of the table (R181). -/
theorem completion_transition {s : State} {i : Instr} (h : Inv s) (hp : s.pend = some i) :
    Transition i s.session (effectOf i s).session := by
  obtain ⟨hi, hl⟩ := h.pending i hp
  exact effectOf_transition hi hl

/-- An issue leaves STATE as it was: only the completion moves it (R85, R181). -/
theorem issue_session (i : Instr) (r : Option ErrCode) (s : State) : (issue i r s).session = s.session := by
  rcases issue_cases i r s with ⟨_, h⟩ | ⟨_, _, _, h⟩ | ⟨_, _, h⟩ <;> rw [h] <;> rfl

/-- A step that completes nothing keeps STATE, or is a reset (R181, R230). -/
theorem session_of_not_completes {s t : State} (hs : step s = .next t) (hc : ¬ s.completes) :
    t.session = s.session ∨ (s.resets ∧ t.session = .idle) := by
  cases step_cases hs with
  | completes i _ hr hm hp => exact absurd ⟨hr, hm, (busy_eq_true_iff s).2 ⟨i, hp⟩⟩ hc
  | idle => exact .inl rfl
  | read off => exact .inl (by rw [sameEngine_read off s])
  | write off w => exact .inl (by rw [endStep_session, writeReg_frame])
  | issue i => exact .inl (issue_session i _ s)
  | illegal => exact .inl (by rw [issueIllegal_eq]; rfl)
  | reset hi => exact .inr ⟨.inl hi, rfl⟩
  | rstLow hi => exact .inr ⟨.inr hi, rfl⟩
  | rstHigh => exact .inl rfl

/-- Settles O32: the completion is that of the command in flight, which the invariant keeps legal. -/
theorem sessionFollowsTheTable : Obligations.SessionFollowsTheTable := by
  unfold Obligations.SessionFollowsTheTable
  intro s t h hs
  refine ⟨fun ⟨_, hm, hb⟩ => ?_, session_of_not_completes hs⟩
  obtain ⟨i, hp⟩ := (busy_eq_true_iff s).1 hb
  obtain rfl := Host.Outcome.next.inj ((step_completion h hp hm).symm.trans hs)
  exact ⟨i, hp, completion_transition h hp⟩

end Sys2Proof.Proofs

/-! Whole messages (spec 20_memory.md R63, 43_pipeline.md R186 to R190): a text and its blocks, the source's encrypt and
decrypt undo each other, and keys of any size. -/

namespace Sys2Proof.Proofs

open Sys2Proof Sys2Proof.Machine Sys2Proof.Laws

/-! ### A text and its blocks -/

@[simp] theorem blockAt_getElem (t : List Byte) (j i : Nat) (h : i < 16) :
    (blockAt t j)[i] = t.getD (16 * j + i) 0 := by simp [blockAt]

theorem blocksOf_length (t : List Byte) : (blocksOf t).length = t.length / 16 := by simp [blocksOf]

theorem blocksOf_getElem? {t : List Byte} {j : Nat} (h : j < t.length / 16) :
    (blocksOf t)[j]? = some (blockAt t j) := by
  simp [blocksOf, List.getElem?_range h]

/-- A block is told by the 16 bytes of the text from its first one on. -/
theorem blockAt_congr {t u : List Byte} {j j' : Nat}
    (h : ∀ i, i < 16 → t.getD (16 * j + i) 0 = u.getD (16 * j' + i) 0) : blockAt t j = blockAt u j' :=
  Vector.ext fun i hi => by rw [blockAt_getElem, blockAt_getElem, h i hi]

theorem bytesOf_cons (b : Block) (bs : List Block) : bytesOf (b :: bs) = b.toList ++ bytesOf bs := rfl

theorem bytesOf_append (bs cs : List Block) : bytesOf (bs ++ cs) = bytesOf bs ++ bytesOf cs := by simp [bytesOf]

theorem bytesOf_singleton (b : Block) : bytesOf [b] = b.toList := by simp [bytesOf]

theorem blockAt_toList_append_zero (b : Block) (t : List Byte) : blockAt (b.toList ++ t) 0 = b := by
  refine Vector.ext fun i hi => ?_
  have hin : i < b.toList.length := by rwa [Vector.length_toList]
  rw [blockAt_getElem, Nat.mul_zero, Nat.zero_add, List.getD_append _ _ _ _ hin, List.getD_eq_getElem _ _ hin,
    Vector.getElem_toList]

theorem blockAt_toList_append_succ (b : Block) (t : List Byte) (j : Nat) :
    blockAt (b.toList ++ t) (j + 1) = blockAt t j := by
  refine blockAt_congr fun i _ => ?_
  have hlen := b.length_toList
  rw [List.getD_append_right _ _ _ _ (by omega), hlen]
  congr 1
  omega

/-- Splitting a concatenation of blocks gives the blocks (R63). -/
theorem blocksOf_bytesOf (bs : List Block) : blocksOf (bytesOf bs) = bs := by
  rw [blocksOf, bytesOf_length, Nat.mul_div_cancel_left _ (by decide)]
  induction bs with
  | nil => rfl
  | cons b bs ih =>
    have htail : (blockAt (b.toList ++ bytesOf bs) ∘ Nat.succ) = blockAt (bytesOf bs) :=
      funext (blockAt_toList_append_succ b _)
    rw [bytesOf_cons, List.length_cons, List.range_succ_eq_map, List.map_cons, List.map_map,
      blockAt_toList_append_zero, htail, ih]

/-- The blocks of a text hold the text but for what is left after its last whole block (R63). -/
theorem bytesOf_blocksOf_take (t : List Byte) : bytesOf (blocksOf t) = t.take (16 * (t.length / 16)) := by
  have hlen : (bytesOf (blocksOf t)).length = 16 * (t.length / 16) := by rw [bytesOf_length, blocksOf_length]
  refine List.ext_getElem (by rw [hlen, List.length_take]; omega) fun q hq hqt => ?_
  have hqlen : q < t.length := by omega
  have hblock : blockAt (bytesOf (blocksOf t)) (q / 16) = blockAt t (q / 16) := by
    have hj : q / 16 < t.length / 16 := by omega
    have hget := blocksOf_getElem? hj
    rw [← blocksOf_bytesOf (blocksOf t), blocksOf_getElem? (by omega)] at hget
    exact Option.some.inj hget
  have hbyte := congrArg (fun b : Block => b[q % 16]'(Nat.mod_lt _ (by decide))) hblock
  simp only [blockAt_getElem] at hbyte
  rwa [Nat.div_add_mod, List.getD_eq_getElem _ _ hq, List.getD_eq_getElem _ _ hqlen, ← List.getElem_take (h := hqt)] at hbyte

/-- A text of whole blocks is the concatenation of its blocks (R63). -/
theorem bytesOf_blocksOf {t : List Byte} (h : t.length % 16 = 0) : bytesOf (blocksOf t) = t := by
  rw [bytesOf_blocksOf_take, List.take_of_length_le (by omega)]

/-! ### Decrypting what was encrypted -/

theorem cbcEncrypt_length (A : List Byte) (k : Nat) (iv : Block) (ps : List Block) :
    (cbcEncrypt A k iv ps).length = ps.length := by
  induction ps generalizing iv with
  | nil => rfl
  | cons p ps ih => rw [cbcEncrypt, List.length_cons, List.length_cons, ih]

theorem cbcDecrypt_length (A : List Byte) (k : Nat) (iv : Block) (cs : List Block) :
    (cbcDecrypt A k iv cs).length = cs.length := by
  simp [cbcDecrypt_eq_zipWith]

theorem merge_merge_left (a b : Block) : merge a (merge a b) = b := by
  rw [merge_comm a b, merge_comm a, merge_merge_right]

/-- CBC decryption undoes CBC encryption, block by block along the same chain (R131). -/
theorem cbcDecrypt_cbcEncrypt {A : List Byte} (hA : A.Nodup) (k : Nat) (iv : Block) (ps : List Block) :
    cbcDecrypt A k iv (cbcEncrypt A k iv ps) = ps := by
  induction ps generalizing iv with
  | nil => rfl
  | cons p ps ih => simp only [cbcEncrypt, cbcDecrypt, decryptBlock_encryptBlock hA, merge_merge_left, ih]

theorem decryptPadded_length (A : List Byte) (k : Nat) (iv : Block) {c : List Byte} (h : c.length % 16 = 0) :
    (decryptPadded A k iv c).length = c.length := by
  rw [decryptPadded, bytesOf_length, cbcDecrypt_length, blocksOf_length]
  omega

/-- A padded text counts whole blocks, at least one (R158). -/
theorem padText_whole {variantB : Bool} {A t u : List Byte} (h : padText variantB A t = some u) :
    u.length % 16 = 0 ∧ 0 < u.length := by
  obtain ⟨hmod, hlt, -⟩ := paddingLengthInvariant variantB A t u h
  omega

/-- The source's ciphertext is as long as the padded text. -/
theorem encryptText_length {variantB : Bool} {A : List Byte} {k : Nat} {iv : Block} {p c u : List Byte}
    (hu : padText variantB A p = some u) (hc : encryptText variantB A k iv p = some c) : c.length = u.length := by
  obtain ⟨hmod, -⟩ := padText_whole hu
  rw [encryptText, hu, Option.map_some] at hc
  rw [← Option.some.inj hc, bytesOf_length, cbcEncrypt_length, blocksOf_length]
  omega

/-- The source's decrypt before its unpad gives the padded text back (R189). -/
theorem decryptPadded_encryptText {variantB : Bool} {A : List Byte} (hA : A.Nodup) {k : Nat} {iv : Block}
    {p c : List Byte} (h : encryptText variantB A k iv p = some c) :
    ∃ u, padText variantB A p = some u ∧ decryptPadded A k iv c = u := by
  obtain ⟨u, hu, rfl⟩ := Option.map_eq_some_iff.1 h
  refine ⟨u, hu, ?_⟩
  rw [decryptPadded, blocksOf_bytesOf, cbcDecrypt_cbcEncrypt hA, bytesOf_blocksOf (padText_whole hu).1]

/-- A pad count of 1 to 16 is its own byte (R152). -/
theorem padCountByte_toNat (n : Nat) : (BitVec.ofNat 8 ((16 - n % 16) % 256)).toNat = 16 - n % 16 := by
  rw [BitVec.toNat_ofNat]
  omega

/-- Unpadding undoes variant (a)'s pad: its last byte is the count of what was appended (R156). -/
theorem unpadText_padText {A p u : List Byte} (h : padText false A p = some u) : unpadText u = some p := by
  obtain rfl := Option.some.inj h
  have hcount := padCountByte_toNat p.length
  have hlast : (p ++ List.replicate (16 - p.length % 16) (BitVec.ofNat 8 ((16 - p.length % 16) % 256))).getLast? =
      some (BitVec.ofNat 8 ((16 - p.length % 16) % 256)) := by
    rw [List.getLast?_append, List.getLast?_replicate, if_neg (by omega), Option.some_or]
  rw [unpadText, hlast]
  simp only [hcount, List.length_append, List.length_replicate, Nat.le_add_left, if_true, Nat.add_sub_cancel,
    List.take_left]

theorem hostMayDecrypt_iff (c : List Byte) : hostMayDecrypt c = true ↔ c.length % 16 = 0 ∧ 0 < c.length := by
  simp [hostMayDecrypt]

/-- Settles O57: the padded text comes back; variant (a)'s unpad cuts its pad off, and either pad stands at the end. -/
theorem messageRoundTrip : Obligations.MessageRoundTrip := by
  unfold Obligations.MessageRoundTrip
  intro k iv p c
  constructor
  · intro hc
    obtain ⟨u, hu, hdec⟩ := decryptPadded_encryptText fullAlphabet_nodup hc
    have hhost : hostMayDecrypt c = true := by
      rw [hostMayDecrypt_iff, encryptText_length hu hc]
      exact padText_whole hu
    rw [decryptText, if_pos hhost, hdec, unpadText_padText hu]
  · intro hc
    obtain ⟨u, hu, hdec⟩ := decryptPadded_encryptText printAlpha_nodup hc
    obtain ⟨pb, rfl⟩ := padText_eq_append hu
    rw [hdec, List.take_left]

/-! ### Keys of any size -/

/-- unrotate reads the key mod N alone (R105). -/
theorem unrotate_congr {A : List Byte} (b : Byte) {k k' : Nat} (h : k % A.length = k' % A.length) :
    unrotate A b k = unrotate A b k' := by
  simp only [unrotate, unrotateIndex, h]

/-- decrypt_block reads the key through its residues mod N and mod 16, as encrypt_block does (R112). -/
theorem decryptBlock_congr {A : List Byte} (B : Block) {k k' : Nat} (hN : k % A.length = k' % A.length)
    (h16 : k % 16 = k' % 16) : decryptBlock A B k = decryptBlock A B k' := by
  simp only [decryptBlock, unrotateEach, unshift, h16, unrotate_congr _ hN]

/-- Keys that encrypt every block alike encrypt every message alike. -/
theorem cbcEncrypt_congr {A : List Byte} {k k' : Nat} (h : ∀ B, encryptBlock A B k = encryptBlock A B k') (iv : Block)
    (ps : List Block) : cbcEncrypt A k iv ps = cbcEncrypt A k' iv ps := by
  induction ps generalizing iv with
  | nil => rfl
  | cons p ps ih => rw [cbcEncrypt, cbcEncrypt, h, ih]

theorem cbcDecrypt_congr {A : List Byte} {k k' : Nat} (h : ∀ B, decryptBlock A B k = decryptBlock A B k') (iv : Block)
    (cs : List Block) : cbcDecrypt A k iv cs = cbcDecrypt A k' iv cs := by
  simp only [cbcDecrypt_eq_zipWith, h]

theorem alphabetOf_length_le (a : Bool) : (alphabetOf a).length ≤ 256 := by
  cases a
  · exact fullAlphabet_length.le
  · exact printAlpha_length_le.trans (by decide)

/-- A residue mod lcm(N, 16) is below 256 * 16 (R190). -/
theorem keyResidue_lt (a : Bool) (k : Nat) : k % Nat.lcm (alphabetOf a).length 16 < 2 ^ 32 := by
  have hpos := one_le_alphabetOf_length a
  have hle : Nat.lcm (alphabetOf a).length 16 ≤ (alphabetOf a).length * 16 :=
    Nat.le_of_dvd (by omega) (Nat.lcm_dvd_mul _ _)
  have hres := Nat.mod_lt k (Nat.lcm_pos hpos (by decide : 0 < 16))
  have h256 := alphabetOf_length_le a
  omega

/-- Settles O56: N and 16 divide their lcm, and the residues mod N and mod 16 are all that either direction reads. -/
theorem largeKeysReduce : Obligations.LargeKeysReduce := by
  unfold Obligations.LargeKeysReduce
  intro a k iv t A r
  have hN : r % A.length = k % A.length := Nat.mod_mod_of_dvd k (Nat.dvd_lcm_left _ _)
  have h16 : r % 16 = k % 16 := Nat.mod_mod_of_dvd k (Nat.dvd_lcm_right _ _)
  have henc (ps : List Block) : cbcEncrypt A r iv ps = cbcEncrypt A k iv ps :=
    cbcEncrypt_congr (fun B => encryptBlock_congr B hN h16) iv ps
  have hdec (cs : List Block) : cbcDecrypt A r iv cs = cbcDecrypt A k iv cs :=
    cbcDecrypt_congr (fun B => decryptBlock_congr B hN h16) iv cs
  refine ⟨keyResidue_lt a k, ?_, ?_⟩
  · simp only [encryptText, henc]
  · simp only [decryptPadded, hdec]

end Sys2Proof.Proofs

/-! Host programs (spec 30_encoding.md R89, 43_pipeline.md R188): what each statement of a program does to the engine, what
the host reads from DOUT meanwhile, one block through the engine, and decryption in any order. -/

namespace Sys2Proof.Proofs

open Sys2Proof Sys2Proof.Machine Sys2Proof.Laws

/-! ### Runs of a host program -/

/-- The events es, taken from any state with the engine of s, run to their end and leave the engine of t; bs are the bytes
that the host reads from DOUT meanwhile. Of the model's own fields, only the record of reads grows. -/
def Runs (es : List Event) (s t : State) (bs : List Byte) : Prop :=
  ∀ (u : State) (rest : List Event), SameEngine s u → u.inputs = es ++ rest →
    ∃ v rs, Sys2Proof.core.run es.length u = .next v ∧ SameEngine t v ∧ v.inputs = rest ∧ v.reads = u.reads ++ rs ∧
      doutBytes rs = bs

theorem doutBytes_append (rs qs : List ReadValue) : doutBytes (rs ++ qs) = doutBytes rs ++ doutBytes qs :=
  List.flatMap_append

theorem runs_nil (s : State) : Runs [] s s [] := fun u _ hu hin => ⟨u, [], rfl, hu, hin, by simp, rfl⟩

/-- Runs compose: one list of events after the other. -/
theorem Runs.append {es fs : List Event} {s t u : State} {bs cs : List Byte} (h₁ : Runs es s t bs)
    (h₂ : Runs fs t u cs) : Runs (es ++ fs) s u (bs ++ cs) := by
  intro x rest hx hin
  rw [List.append_assoc] at hin
  obtain ⟨y, rs, hrun₁, hy, hiny, hreads₁, rfl⟩ := h₁ x _ hx hin
  obtain ⟨z, qs, hrun₂, hz, hinz, hreads₂, rfl⟩ := h₂ y rest hy hiny
  refine ⟨z, rs ++ qs, ?_, hz, hinz, ?_, doutBytes_append rs qs⟩
  · rw [List.length_append, run_add _ hrun₁, hrun₂]
  · rw [hreads₂, hreads₁, List.append_assoc]

/-- A run of one event is a step. -/
theorem runs_of_step {e : Event} {s t : State} {bs : List Byte}
    (h : ∀ (u : State) (rest : List Event), SameEngine s u → u.inputs = e :: rest →
      ∃ v rs, step u = .next v ∧ SameEngine t v ∧ v.reads = u.reads ++ rs ∧ doutBytes rs = bs) : Runs [e] s t bs := by
  intro u rest hu hin
  obtain ⟨v, rs, hstep, hv, hreads, hbytes⟩ := h u rest hu hin
  exact ⟨v, rs, run_succ_of_step 0 hstep, hv, by rw [step_inputs hstep, hin]; rfl, hreads, hbytes⟩

/-- An event that leaves the engine as it is may come any number of times. -/
theorem runs_replicate {e : Event} {s : State} (h : Runs [e] s s []) (n : Nat) : Runs (List.replicate n e) s s [] := by
  induction n with
  | zero => exact runs_nil s
  | succ n ih => exact h.append ih

theorem expandAll_append (p q : List Stmt) : expandAll (p ++ q) = expandAll p ++ expandAll q := List.flatMap_append

/-! ### One event -/

theorem IgnoresOwnFields.reads_eq {f : State → State} (hf : IgnoresOwnFields f) (s : State) : (f s).reads = s.reads := by
  have h : f s = { f s with inputs := s.inputs, reads := s.reads, draws := s.draws } := hf s s.inputs s.reads s.draws
  rw [h]

/-- A step that makes up an update of the engine alone. -/
theorem runs_of_update {e : Event} {s : State} {f : State → State} (hf : IgnoresOwnFields f)
    (h : ∀ (u : State) (rest : List Event), SameEngine s u → u.inputs = e :: rest → step u = .next (f u).endStep) :
    Runs [e] s (f s) [] :=
  runs_of_step fun u rest hu hin =>
    ⟨_, [], h u rest hu hin, sameEngine_trans (hf.sameEngine hu) (sameEngine_endStep _), by simp [hf.reads_eq], rfl⟩

/-- A choice between two such updates, by a condition on the engine. -/
theorem IgnoresOwnFields.ite {c : State → Prop} [DecidablePred c] {f g : State → State}
    (hc : ∀ (s : State) (es : List Event) (rs : List ReadValue) (d : Nat),
      c { s with inputs := es, reads := rs, draws := d } = c s)
    (hf : IgnoresOwnFields f) (hg : IgnoresOwnFields g) : IgnoresOwnFields fun s => if c s then f s else g s := by
  intro s es rs d
  by_cases h : c s
  · simp only [hc, h, if_true, hf s es rs d]
  · simp only [hc, h, if_false, hg s es rs d]

theorem ignoresOwnFields_recordError (c : ErrCode) : IgnoresOwnFields (recordError c) := fun _ _ _ _ => rfl

theorem ignoresOwnFields_writeReg (r : Reg) (w : Word) : IgnoresOwnFields (writeReg r w) := by
  cases r with
  | ctrl | key =>
    exact .ite (fun _ _ _ _ => rfl) (ignoresOwnFields_recordError _)
      (.ite (fun _ _ _ _ => rfl) (fun _ _ _ _ => rfl) (ignoresOwnFields_recordError _))
  | iv | din => exact .ite (fun _ _ _ _ => rfl) (ignoresOwnFields_recordError _) fun _ _ _ _ => rfl
  | _ => exact fun _ _ _ _ => rfl

/-- A write to a register other than CMD (R61, R89). -/
theorem runs_regWrite {s : State} (hr : s.rstN = true) {r : Reg} (hc : r ≠ .cmd) (w : Word) :
    Runs [busWriteEvent (offsetOf r) w] s (writeReg r w s) [] := by
  have hreg : regAt (offsetOf r) = r := (regAt_offsetOf r).1
  refine runs_of_update (ignoresOwnFields_writeReg r w) fun u rest hu hin => ?_
  have hru : u.rstN = true := by rw [hu]; exact hr
  rw [step_regWrite hru (by rwa [hreg]) hin, hreg]

/-- The read of a register, while not busy or of one that is no result, answers with the register (R61, R64). -/
theorem runs_read {s : State} (hr : s.rstN = true) {r : Reg} (h : s.busy = false ∨ r.isResult = false) :
    Runs [busReadEvent (offsetOf r)] s s (doutBytes [{ off := offsetOf r, value := s.readReg r }]) := by
  have hreg : regAt (offsetOf r) = r := (regAt_offsetOf r).1
  refine runs_of_step fun u rest hu hin => ⟨_, [⟨offsetOf r, s.readReg r⟩], step_read hin, ?_, ?_, rfl⟩
  · exact sameEngine_trans hu (sameEngine_read _ u)
  · have hru : u.rstN = true := by rw [hu]; exact hr
    have hbusy : u.busy = s.busy := by rw [hu]; rfl
    have hvalue : u.readReg r = s.readReg r := by rw [hu]; cases r <;> rfl
    rw [endStep_reads, busRead_register hru (by rwa [hreg, hbusy]), hreg, hvalue]
    rfl

/-- A poll of STATUS changes nothing and reads nothing from DOUT (R67, R89). -/
theorem runs_poll {s : State} (hr : s.rstN = true) : Runs [busReadEvent (offsetOf .status)] s s [] := by
  have h := runs_read hr (r := .status) (.inr rfl)
  simpa [doutBytes, (regAt_offsetOf .status).1] using h

/-- The state after the completion of command i (R87). -/
def completed (i : Instr) (s : State) : State := (effectOf i s).finish

theorem ignoresOwnFields_completed (i : Instr) : IgnoresOwnFields (completed i) := by
  intro s es rs d
  rw [completed, ignoresOwnFields_effectOf i s es rs d]
  rfl

theorem reportUnpad_setPend (T : Word) (last : Byte) (s : State) (p : Option Instr) :
    reportUnpad T last { s with pend := p } = { reportUnpad T last s with pend := p } := rfl

theorem decFinalEffect_setPend (A : List Byte) (s : State) (p : Option Instr) :
    decFinalEffect A { s with pend := p } = { decFinalEffect A s with pend := p } := by
  have hT : ({ s with pend := p } : State).nextLen = s.nextLen := rfl
  have hbefore : decFinalBeforeReport A { s with pend := p } = { decFinalBeforeReport A s with pend := p } := rfl
  by_cases ha : s.alphaSel = true
  · rw [decFinalEffect_skips ha, decFinalEffect_skips (s := { s with pend := p }) ha, hT, hbefore]
    rfl
  · have ha' : s.alphaSel = false := eq_false_of_ne_true ha
    have hlast : (({ s with pend := p } : State).chainDecrypt A)[15] = (s.chainDecrypt A)[15] := rfl
    rw [decFinalEffect_reports ha' rfl, decFinalEffect_reports (s := { s with pend := p }) ha' hlast, hT, hbefore,
      reportUnpad_setPend]

/-- An effect neither looks at PEND nor changes it. -/
theorem effectOf_setPend (i : Instr) (s : State) (p : Option Instr) :
    effectOf i { s with pend := p } = { effectOf i s with pend := p } := by
  have hA : ({ s with pend := p } : State).alphabet = s.alphabet := rfl
  simp only [effectOf, hA]
  generalize s.alphabet = A
  cases i with
  | decFinal => exact decFinalEffect_setPend A s p
  | _ => rfl

theorem completed_accept (i j : Instr) (s : State) : completed i (s.accept j) = completed i s := by
  rw [completed, State.accept, effectOf_setPend]
  rfl

/-- The engine's turn completes the command in flight (R87). -/
theorem runs_engine {s : State} {i : Instr} (hi : i ≠ .nop) (hr : s.rstN = true) :
    Runs [.engine] (s.accept i) (completed i s) [] := by
  rw [← completed_accept i i s]
  refine runs_of_update (ignoresOwnFields_completed i) fun u rest hu hin => ?_
  have hm : u.engineMoves = true := by rw [State.engineMoves, hin]
  have hp : u.pend = some i := by rw [hu]; rfl
  have hru : u.rstN = true := by rw [hu]; exact hr
  rw [step_engine_of_pend hru hm hp, exec_engine hi hm hp]
  rfl

/-! ### The statements of a program -/

/-- `cmd` of a legal command, with none in flight, is accepted (R85, R89). -/
theorem runs_cmd {s : State} {i : Instr} (hi : i ≠ .nop) (hr : s.rstN = true) (hp : s.pend = none)
    (hl : legality i s = none) : Runs (Stmt.cmd i).expand s (s.accept i) [] := by
  refine runs_of_update (f := State.accept i) (fun _ _ _ _ => rfl) fun u rest hu hin => ?_
  have hru : u.rstN = true := by rw [hu]; exact hr
  have hpu : u.pend = none := by rw [hu]; exact hp
  have hlu : legality i u = none := by rw [← hl]; rw [hu]; exact legality_congr i rfl rfl rfl
  exact step_cmdWrite_accepted hi hru hpu hlu hin

/-- `wait` ends with the completion, however often it polls (R89, R242). -/
theorem runs_wait {s : State} {i : Instr} (hi : i ≠ .nop) (hr : s.rstN = true) (polls : Nat) :
    Runs (Stmt.wait polls).expand (s.accept i) (completed i s) [] := by
  have hra : (s.accept i).rstN = true := hr
  have hrc : (completed i s).rstN = true := by rw [completed, finish_rstN, effectOf_rstN, hr]
  exact (runs_replicate (runs_poll hra) polls).append ((runs_engine hi hr).append (runs_poll hrc))

/-- A command and the wait for it. -/
theorem runs_cmd_wait {s : State} {i : Instr} (hi : i ≠ .nop) (hr : s.rstN = true) (hp : s.pend = none)
    (hl : legality i s = none) (polls : Nat) :
    Runs (expandAll [.cmd i, .wait polls]) s (completed i s) [] := by
  have h := (runs_cmd hi hr hp hl).append (runs_wait hi hr polls)
  simpa [expandAll] using h

/-- Four writes, one to each register of a group, leave the block there (R62). -/
theorem regGroup_set_pack (g : RegGroup) (b : Block) :
    (((g.set 0 (pack b)[0]).set 1 (pack b)[1]).set 2 (pack b)[2]).set 3 (pack b)[3] = pack b := by
  refine Vector.ext fun j hj => ?_
  interval_cases j <;> simp

theorem writeReg_iv {s : State} (hp : s.pend = none) (j : Fin 4) (w : Word) :
    writeReg (.iv j) w s = { s with iv := s.iv.set j w } := by simp [writeReg, writeUnlessBusy, State.busy, hp]

theorem writeReg_din {s : State} (hp : s.pend = none) (j : Fin 4) (w : Word) :
    writeReg (.din j) w s = { s with din := s.din.set j w } := by simp [writeReg, writeUnlessBusy, State.busy, hp]

/-- `wrblk`, for a group whose registers store what is written: f r is the state with r in the group (R89). -/
theorem runs_wrblk {g : Group} {b : Block} {f : RegGroup → State}
    (hw : ∀ (r : RegGroup) (j : Fin 4),
      Runs [busWriteEvent (offsetOf (g.reg j)) (pack b)[j]] (f r) (f (r.set j (pack b)[j])) []) (r : RegGroup) :
    Runs (Stmt.wrblk g b).expand (f r) (f (pack b)) [] := by
  have h := (((hw r 0).append (hw _ 1)).append (hw _ 2)).append (hw _ 3)
  rw [← regGroup_set_pack r b]
  exact h

/-- `wrblk IV`, with no command in flight (R25). -/
theorem runs_wrblk_iv {s : State} (hr : s.rstN = true) (hp : s.pend = none) (b : Block) :
    Runs (Stmt.wrblk .iv b).expand s { s with iv := pack b } [] := by
  refine runs_wrblk (f := fun r => { s with iv := r }) (fun r j => ?_) s.iv
  rw [← writeReg_iv (s := { s with iv := r }) hp]
  exact runs_regWrite (s := { s with iv := r }) hr (by simp [Group.reg]) _

/-- `wrblk DIN`, with no command in flight (R30). -/
theorem runs_wrblk_din {s : State} (hr : s.rstN = true) (hp : s.pend = none) (b : Block) :
    Runs (Stmt.wrblk .din b).expand s { s with din := pack b } [] := by
  refine runs_wrblk (f := fun r => { s with din := r }) (fun r j => ?_) s.din
  rw [← writeReg_din (s := { s with din := r }) hp]
  exact runs_regWrite (s := { s with din := r }) hr (by simp [Group.reg]) _

/-- The bytes of the four words of a block, in order (R62, R63). -/
theorem wordBytes_blk (g : RegGroup) :
    wordBytes g[0] ++ wordBytes g[1] ++ wordBytes g[2] ++ wordBytes g[3] = (blk g).toList := by
  simp [blk, wordBytes, Vector.toList_ofFn, List.ofFn_succ]

/-- `rdblk DOUT`, with no command in flight (R31, R89). -/
theorem runs_rdblk_dout {s : State} (hr : s.rstN = true) (hp : s.pend = none) :
    Runs (Stmt.rdblk .dout).expand s s (blk s.dout).toList := by
  have hw (j : Fin 4) : Runs [busReadEvent (offsetOf (.dout j))] s s (wordBytes s.dout[j]) := by
    have hbytes : doutBytes [{ off := offsetOf (.dout j), value := s.readReg (.dout j) }] = wordBytes s.dout[j] := by
      simp [doutBytes, (regAt_offsetOf (.dout j)).1, State.readReg]
    rw [← hbytes]
    exact runs_read hr (.inl ((busy_eq_false_iff s).2 hp))
  rw [← wordBytes_blk]
  exact (((hw 0).append (hw 1)).append (hw 2)).append (hw 3)

/-- One block through the engine (R186, R187). -/
theorem runs_block {s : State} {i : Instr} (hi : i ≠ .nop) (hr : s.rstN = true) (hp : s.pend = none)
    (hl : legality i s = none) (polls : Nat) (b : Block) :
    Runs (expandAll (blockStmts polls b i)) s (completed i { s with din := pack b })
      (blk (completed i { s with din := pack b }).dout).toList := by
  have hrc : (completed i { s with din := pack b }).rstN = true := by rw [completed, finish_rstN, effectOf_rstN, hr]
  have hlb : legality i { s with din := pack b } = none := by rw [← hl]; exact legality_congr i rfl rfl rfl
  have h := ((runs_wrblk_din hr hp b).append (runs_cmd_wait (s := { s with din := pack b }) hi hr hp hlb polls)).append
    (runs_rdblk_dout hrc rfl)
  simpa [blockStmts, expandAll] using h

/-! ### Decryption in any order -/

/-- The engine when DEC_BLOCK of block c is issued, after LOAD_CHAIN from the IV prev (R188). -/
def reseeded (prev c : Block) (s : State) : State :=
  { completed .loadChain { s with iv := pack prev } with din := pack c }

/-- Its plaintext depends on the block loaded, and not on what CHAIN held before (R134, R136). -/
theorem reseeded_chainDecrypt (prev c : Block) (s : State) (A : List Byte) :
    (reseeded prev c s).chainDecrypt A = merge prev (decryptBlock A c s.key.toNat) := by
  show merge (blk (pack prev)) (decryptBlock A (blk (pack c)) s.key.toNat) = _
  rw [blk_pack, blk_pack]

/-- Settles O60: LOAD_CHAIN reseeds CHAIN, whatever was there, and DEC_BLOCK decrypts from it. -/
theorem anyOrderDecryption : Obligations.AnyOrderDecryption := by
  unfold Obligations.AnyOrderDecryption
  intro s prev c polls polls' rest hr hp hq hroom stmts hin
  have hseed := (runs_wrblk_iv hr hp prev).append
    (runs_cmd_wait (s := { s with iv := pack prev }) (i := .loadChain) (by decide) hr hp rfl polls)
  have hlegal : legality .decBlock (reseeded prev c s) = none :=
    (firstFailure_eq_none _ _).2 ⟨(requireSession_eq_none _ _).2 hq, (requireRoom_eq_none _).2 hroom⟩
  have hdec := (runs_wrblk_din (s := completed .loadChain { s with iv := pack prev }) hr rfl c).append
    (runs_cmd_wait (s := reseeded prev c s) (i := .decBlock) (by decide) hr rfl hlegal polls')
  have hruns : Runs (expandAll stmts) s (completed .decBlock (reseeded prev c s)) [] := by
    simpa [stmts, expandAll] using hseed.append hdec
  obtain ⟨t, rs, hrun, ht, hrest, -, -⟩ := hruns s rest rfl hin
  refine ⟨t, hrun, hrest, ?_, ?_, ?_, ?_, ?_, ?_⟩ <;> rw [ht]
  · exact congrArg pack (reseeded_chainDecrypt prev c s s.alphabet)
  · rfl
  · rfl
  · exact hq
  · rfl
  · rfl

end Sys2Proof.Proofs

/-! The encrypt and decrypt pipelines (spec 43_pipeline.md R186, R187): opening a session, the blocks of a session one by
one, and the final block. -/

namespace Sys2Proof.Proofs

open Sys2Proof Sys2Proof.Machine Sys2Proof.Laws

/-! ### Opening a session -/

/-- s with its alphabet, key and IV set up for a session (R186, R187). -/
def configured (a : Bool) (k : Word) (iv : Block) (s : State) : State :=
  { s with alphaSel := a, key := k, iv := pack iv }

theorem bit_getLsbD_zero (b : Bool) : (bit b).getLsbD 0 = b := by cases b <;> rfl

theorem writeReg_ctrl {s : State} (hp : s.pend = none) (hq : s.session = .idle) (w : Word) :
    writeReg .ctrl w s = { s with alphaSel := w.getLsbD 0 } := by
  simp [writeReg, writeUnlessLocked, State.busy, hp, hq]

theorem writeReg_key {s : State} (hp : s.pend = none) (hq : s.session = .idle) (w : Word) :
    writeReg .key w s = { s with key := w } := by
  simp [writeReg, writeUnlessLocked, State.busy, hp, hq]

/-- In IDLE with no command in flight, the set-up stores what it writes (R22, R24, R25). -/
theorem runs_setup {s : State} (hr : s.rstN = true) (hp : s.pend = none) (hq : s.session = .idle) (a : Bool) (k : Word)
    (iv : Block) : Runs (expandAll (setupStmts a k iv)) s (configured a k iv s) [] := by
  have hctrl := runs_regWrite hr (r := .ctrl) (by decide) (bit a)
  rw [writeReg_ctrl hp hq, bit_getLsbD_zero] at hctrl
  have hkey := runs_regWrite (s := { s with alphaSel := a }) hr (r := .key) (by decide) k
  rw [writeReg_key (s := { s with alphaSel := a }) hp hq] at hkey
  have hiv := runs_wrblk_iv (s := { s with alphaSel := a, key := k }) hr hp iv
  have h := (hctrl.append hkey).append hiv
  simpa [setupStmts, expandAll, Stmt.expand, configured] using h

/-- The commands that open a session, and the session (R183, R184). -/
def OpensSession (i : Instr) (q : Session) : Prop := (i = .startEnc ∧ q = .enc) ∨ (i = .startDec ∧ q = .dec)

theorem OpensSession.effectOf_eq {i : Instr} {q : Session} (h : OpensSession i q) (s : State) :
    effectOf i s = openSession q s := by
  rcases h with ⟨rfl, rfl⟩ | ⟨rfl, rfl⟩ <;> rfl

theorem OpensSession.legality_eq_none {i : Instr} {q : Session} (h : OpensSession i q) {s : State}
    (hq : s.session = .idle) : legality i s = none := by
  rcases h with ⟨rfl, rfl⟩ | ⟨rfl, rfl⟩ <;> exact (requireSession_eq_none _ _).2 hq

theorem OpensSession.ne_nop {i : Instr} {q : Session} (h : OpensSession i q) : i ≠ .nop := by
  rcases h with ⟨rfl, rfl⟩ | ⟨rfl, rfl⟩ <;> decide

/-- The engine when a session has just been opened under alphabet a, key k and IV iv. -/
def opened (q : Session) (a : Bool) (k : Word) (iv : Block) (s : State) : State :=
  (openSession q (configured a k iv s)).finish

/-- The start of both pipelines: the set-up, the command that opens the session, and the wait for it. -/
theorem runs_open {s : State} {i : Instr} {q : Session} (hi : OpensSession i q) (hr : s.rstN = true)
    (hp : s.pend = none) (hq : s.session = .idle) (a : Bool) (k : Word) (iv : Block) (polls : Nat) :
    Runs (expandAll (setupStmts a k iv ++ [.cmd i, .wait polls])) s (opened q a k iv s) [] := by
  have hstart := runs_cmd_wait (s := configured a k iv s) hi.ne_nop hr hp (hi.legality_eq_none hq) polls
  rw [completed, hi.effectOf_eq] at hstart
  rw [expandAll_append]
  exact (runs_setup hr hp hq a k iv).append hstart

/-! ### The blocks of a session -/

/-- The engine after j blocks: block j is written to DIN and put through command i (R186, R187). -/
def afterBlocks (i : Instr) (b : Nat → Block) (s : State) : Nat → State
  | 0 => s
  | j + 1 => completed i { afterBlocks i b s j with din := pack (b j) }

/-- Alphabet, key, STATE, ERR and the pin are those of s: what a block command keeps. -/
structure SameSession (s t : State) : Prop where
  alphaSel : t.alphaSel = s.alphaSel
  key : t.key = s.key
  session : t.session = s.session
  err : t.err = s.err
  rstN : t.rstN = s.rstN

theorem SameSession.alphabet {s t : State} (h : SameSession s t) : t.alphabet = s.alphabet := by
  rw [State.alphabet, h.alphaSel, State.alphabet]

theorem SameSession.trans {s t u : State} (h : SameSession s t) (h' : SameSession t u) : SameSession s u where
  alphaSel := h'.alphaSel.trans h.alphaSel
  key := h'.key.trans h.key
  session := h'.session.trans h.session
  err := h'.err.trans h.err
  rstN := h'.rstN.trans h.rstN

/-- The command that takes a session on by one block (R132, R133). -/
def BlockCommand (i : Instr) (q : Session) : Prop := (i = .encBlock ∧ q = .enc) ∨ (i = .decBlock ∧ q = .dec)

theorem BlockCommand.ne_nop {i : Instr} {q : Session} (h : BlockCommand i q) : i ≠ .nop := by
  rcases h with ⟨rfl, rfl⟩ | ⟨rfl, rfl⟩ <;> decide

theorem BlockCommand.legality_eq_none {i : Instr} {q : Session} (h : BlockCommand i q) {s : State}
    (hq : s.session = q) (hroom : s.msgLen.toNat < 0xFFFFFFF0) : legality i s = none := by
  have hchecks : firstFailure (requireSession q s) (requireRoom s) = none :=
    (firstFailure_eq_none _ _).2 ⟨(requireSession_eq_none _ _).2 hq, (requireRoom_eq_none _).2 hroom⟩
  rcases h with ⟨rfl, rfl⟩ | ⟨rfl, rfl⟩ <;> exact hchecks

theorem BlockCommand.sameSession {i : Instr} {q : Session} (h : BlockCommand i q) (s : State) (d : RegGroup) :
    SameSession s (completed i { s with din := d }) := by
  rcases h with ⟨rfl, rfl⟩ | ⟨rfl, rfl⟩ <;> exact ⟨rfl, rfl, rfl, rfl, rfl⟩

theorem BlockCommand.msgLen_eq {i : Instr} {q : Session} (h : BlockCommand i q) (s : State) (d : RegGroup) :
    (completed i { s with din := d }).msgLen = s.nextLen := by
  rcases h with ⟨rfl, rfl⟩ | ⟨rfl, rfl⟩ <;> rfl

section
variable {i : Instr} {q : Session} (b : Nat → Block) (s : State)

theorem afterBlocks_sameSession (hi : BlockCommand i q) (j : Nat) : SameSession s (afterBlocks i b s j) := by
  induction j with
  | zero => exact ⟨rfl, rfl, rfl, rfl, rfl⟩
  | succ j ih => exact ih.trans (hi.sameSession _ _)

theorem afterBlocks_pend (hp : s.pend = none) (j : Nat) : (afterBlocks i b s j).pend = none := by
  cases j with
  | zero => exact hp
  | succ j => rfl

/-- MSGLEN counts the blocks (R33). -/
theorem afterBlocks_msgLen (hi : BlockCommand i q) {j : Nat} (hroom : s.msgLen.toNat + 16 * j ≤ 0xFFFFFFF0) :
    (afterBlocks i b s j).msgLen.toNat = s.msgLen.toNat + 16 * j := by
  induction j with
  | zero => rfl
  | succ j ih =>
    have hj := ih (by omega)
    rw [afterBlocks, hi.msgLen_eq, nextLen_toNat (by omega), hj]
    omega

variable {b s}

/-- The blocks of a session through the engine, one by one (R186, R187). -/
theorem runs_blocks (hi : BlockCommand i q) (hr : s.rstN = true) (hp : s.pend = none) (hq : s.session = q) {m : Nat}
    (hroom : s.msgLen.toNat + 16 * m ≤ 0xFFFFFFF0) (polls : Nat → Nat) :
    Runs (expandAll ((List.range m).flatMap fun j => blockStmts (polls (j + 1)) (b j) i)) s (afterBlocks i b s m)
      (bytesOf ((List.range m).map fun j => blk (afterBlocks i b s (j + 1)).dout)) := by
  induction m with
  | zero => exact runs_nil s
  | succ m ih =>
    have hsame : SameSession s (afterBlocks i b s m) := afterBlocks_sameSession b s hi m
    have hlen : (afterBlocks i b s m).msgLen.toNat = s.msgLen.toNat + 16 * m :=
      afterBlocks_msgLen b s hi (by omega)
    have hblock := runs_block hi.ne_nop (hsame.rstN.trans hr) (afterBlocks_pend b s hp m)
      (hi.legality_eq_none (hsame.session.trans hq) (by omega)) (polls (m + 1)) (b m)
    rw [List.range_succ, List.flatMap_append, List.flatMap_singleton, expandAll_append, List.map_append,
      List.map_singleton, bytesOf_append, bytesOf_singleton]
    exact (ih (by omega)).append hblock

end

/-! ### CBC block by block -/

/-- One more plaintext block chains from the last ciphertext block, the IV if there is none (R131). -/
theorem cbcEncrypt_append_singleton (A : List Byte) (k : Nat) (iv : Block) (ps : List Block) (p : Block) :
    cbcEncrypt A k iv (ps ++ [p]) =
      cbcEncrypt A k iv ps ++ [encryptBlock A (merge ((cbcEncrypt A k iv ps).getLastD iv) p) k] := by
  induction ps generalizing iv with
  | nil => rfl
  | cons q qs ih => simp only [List.cons_append, cbcEncrypt, ih, List.getLastD_cons]

theorem cbcDecrypt_append_singleton (A : List Byte) (k : Nat) (iv : Block) (cs : List Block) (c : Block) :
    cbcDecrypt A k iv (cs ++ [c]) = cbcDecrypt A k iv cs ++ [merge (cs.getLastD iv) (decryptBlock A c k)] := by
  induction cs generalizing iv with
  | nil => rfl
  | cons d ds ih => simp only [List.cons_append, cbcDecrypt, ih, List.getLastD_cons]

/-- ENC_BLOCK shows the ciphertext of the block in DIN, chained from CHAIN (R132). -/
theorem completed_encBlock_dout (s : State) (p : Block) :
    blk (completed .encBlock { s with din := pack p }).dout =
      encryptBlock s.alphabet (merge (blk s.chain) p) s.keyNat := by
  have hcipher : ({ s with din := pack p } : State).chainEncrypt s.alphabet (blk (pack p)) =
      encryptBlock s.alphabet (merge (blk s.chain) p) s.keyNat := by
    rw [blk_pack]
    rfl
  exact (blk_pack _).trans hcipher

/-- DEC_BLOCK shows the plaintext of the block in DIN, chained from CHAIN (R133). -/
theorem completed_decBlock_dout (s : State) (c : Block) :
    blk (completed .decBlock { s with din := pack c }).dout =
      merge (blk s.chain) (decryptBlock s.alphabet c s.keyNat) := by
  have hplain : ({ s with din := pack c } : State).chainDecrypt s.alphabet =
      merge (blk s.chain) (decryptBlock s.alphabet c s.keyNat) := by
    show merge (blk s.chain) (decryptBlock s.alphabet (blk (pack c)) s.keyNat) = _
    rw [blk_pack]
  exact (blk_pack _).trans hplain

/-- After the blocks of an encrypt session, DOUT has shown their ciphertext, and CHAIN holds the last of it (R132). -/
theorem encBlocks_ciphertext (b : Nat → Block) (s : State) (m : Nat) :
    ((List.range m).map fun j => blk (afterBlocks .encBlock b s (j + 1)).dout) =
      cbcEncrypt s.alphabet s.keyNat (blk s.chain) ((List.range m).map b) ∧
    blk (afterBlocks .encBlock b s m).chain =
      (cbcEncrypt s.alphabet s.keyNat (blk s.chain) ((List.range m).map b)).getLastD (blk s.chain) := by
  induction m with
  | zero => exact ⟨rfl, rfl⟩
  | succ m ih =>
    obtain ⟨hdout, hchain⟩ := ih
    have hsame : SameSession s (afterBlocks .encBlock b s m) := afterBlocks_sameSession b s (.inl ⟨rfl, rfl⟩) m
    have hcipher : blk (afterBlocks .encBlock b s (m + 1)).dout =
        encryptBlock s.alphabet (merge (blk (afterBlocks .encBlock b s m).chain) (b m)) s.keyNat := by
      rw [afterBlocks, completed_encBlock_dout, hsame.alphabet, State.keyNat, hsame.key, State.keyNat]
    have hsamechain : (afterBlocks .encBlock b s (m + 1)).chain = (afterBlocks .encBlock b s (m + 1)).dout := rfl
    rw [List.range_succ, List.map_append, List.map_append, List.map_singleton, List.map_singleton,
      cbcEncrypt_append_singleton, hdout, hsamechain, hcipher, hchain]
    exact ⟨rfl, by simp⟩

/-- After the blocks of a decrypt session, DOUT has shown their plaintext, and CHAIN holds the last ciphertext block
(R133). -/
theorem decBlocks_plaintext (b : Nat → Block) (s : State) (m : Nat) :
    ((List.range m).map fun j => blk (afterBlocks .decBlock b s (j + 1)).dout) =
      cbcDecrypt s.alphabet s.keyNat (blk s.chain) ((List.range m).map b) ∧
    blk (afterBlocks .decBlock b s m).chain = ((List.range m).map b).getLastD (blk s.chain) := by
  induction m with
  | zero => exact ⟨rfl, rfl⟩
  | succ m ih =>
    obtain ⟨hdout, hchain⟩ := ih
    have hsame : SameSession s (afterBlocks .decBlock b s m) := afterBlocks_sameSession b s (.inr ⟨rfl, rfl⟩) m
    have hplain : blk (afterBlocks .decBlock b s (m + 1)).dout =
        merge (blk (afterBlocks .decBlock b s m).chain) (decryptBlock s.alphabet (b m) s.keyNat) := by
      rw [afterBlocks, completed_decBlock_dout, hsame.alphabet, State.keyNat, hsame.key, State.keyNat]
    have hchain' : (afterBlocks .decBlock b s (m + 1)).chain = pack (b m) := rfl
    rw [List.range_succ, List.map_append, List.map_append, List.map_singleton, List.map_singleton,
      cbcDecrypt_append_singleton, hdout, hchain', hplain, hchain, blk_pack]
    exact ⟨rfl, by simp⟩

/-- The engine after the blocks of an encrypt session is that of `head_of_session`, but for PEND and DONE. -/
theorem afterBlocks_encBlock_eq (b : Nat → Block) (s : State) (m : Nat) :
    afterBlocks .encBlock b (startEncEffect s).finish m =
      (((List.range m).map b).foldl encPlaintext (startEncEffect s)).finish := by
  induction m with
  | zero => rfl
  | succ m ih =>
    rw [afterBlocks, ih, List.range_succ, List.map_append, List.map_singleton, List.foldl_append, List.foldl_cons,
      List.foldl_nil]
    rfl

end Sys2Proof.Proofs

/-! The ends of the two pipelines (spec 43_pipeline.md R186, R187): the padded final block of an encryption, the unpad
report of a decryption, and what the whole sequences compute. -/

namespace Sys2Proof.Proofs

open Sys2Proof Sys2Proof.Machine Sys2Proof.Laws

/-! ### The final block of a padded text -/

/-- NBYTES of the pipeline's ENC_FINAL is the number of bytes left after the whole blocks (R81, R186). -/
theorem ofNat_mod_toNat (L : Nat) : (BitVec.ofNat 4 (L % 16)).toNat = L % 16 := by
  rw [BitVec.toNat_ofNat]
  omega

/-- Both variants append 16 - L mod 16 copies of one byte: the count in variant (a), the byte at the offset in variant (b)
(R152, R153). -/
theorem padText_padByte {variantB : Bool} {A p u : List Byte} (h : padText variantB A p = some u) :
    ∃ pb, u = p ++ List.replicate (16 - p.length % 16) pb ∧
      (variantB = false → pb = padByteFull (BitVec.ofNat 4 (p.length % 16))) ∧
      (variantB = true → p[padOffset A.length (BitVec.ofNat 4 (p.length % 16))]? = some pb) := by
  have hcount : padCount (BitVec.ofNat 4 (p.length % 16)) = 16 - p.length % 16 := by
    rw [padCount, ofNat_mod_toNat]
  rw [padByteFull, padOffset, hcount]
  cases variantB with
  | false => exact ⟨_, (Option.some.inj h).symm, fun _ => rfl, nofun⟩
  | true =>
    obtain ⟨pb, hpb, hu⟩ := Option.map_eq_some_iff.1 h
    exact ⟨pb, hu.symm, nofun, fun _ => hpb⟩

theorem finalBlock_getElem (p : List Byte) (fill : Block) (i : Nat) (h : i < 16) :
    (finalBlock p fill)[i] = p.getD (16 * (p.length / 16) + i) fill[i] := by simp [finalBlock]

/-- Padded, the final block is the last block of the padded text: the filler is not used (R151, R162). -/
theorem paddedBlock_finalBlock (p : List Byte) (fill : Block) (pb : Byte) :
    paddedBlock (BitVec.ofNat 4 (p.length % 16)) pb (finalBlock p fill) =
      blockAt (p ++ List.replicate (16 - p.length % 16) pb) (p.length / 16) := by
  refine Vector.ext fun i hi => ?_
  rw [paddedBlock_getElem, ofNat_mod_toNat, blockAt_getElem, finalBlock_getElem]
  by_cases hin : i < p.length % 16
  · have hlt : 16 * (p.length / 16) + i < p.length := by omega
    rw [if_pos hin, List.getD_append _ _ _ _ hlt, List.getD_eq_getElem _ _ hlt, List.getD_eq_getElem _ _ hlt]
  · rw [if_neg hin, List.getD_append_right _ _ _ _ (by omega),
      List.getD_eq_getElem _ _ (by rw [List.length_replicate]; omega), List.getElem_replicate]

/-- A padded text is the whole blocks of the text and one more. -/
theorem blocksOf_padded (p : List Byte) (pb : Byte) :
    blocksOf (p ++ List.replicate (16 - p.length % 16) pb) =
      blocksOf p ++ [blockAt (p ++ List.replicate (16 - p.length % 16) pb) (p.length / 16)] := by
  have hcount : (p ++ List.replicate (16 - p.length % 16) pb).length / 16 = p.length / 16 + 1 := by
    rw [List.length_append, List.length_replicate]
    omega
  have hblocks : ∀ j ∈ List.range (p.length / 16),
      blockAt (p ++ List.replicate (16 - p.length % 16) pb) j = blockAt p j := by
    intro j hj
    have hj' := List.mem_range.1 hj
    exact blockAt_congr fun i hi => List.getD_append _ _ _ _ (by omega)
  rw [blocksOf, hcount, List.range_succ, List.map_append, List.map_singleton, List.map_congr_left hblocks, blocksOf]

/-! ### ENC_FINAL at the end of a session -/

/-- The engine holds the text p: MSGLEN counts its whole blocks, HEAD has its first bytes from them, and DIN what is left
(R36, R162). -/
structure HoldsText (p : List Byte) (fill : Block) (s : State) : Prop where
  msgLen : s.msgLen.toNat = 16 * (p.length / 16)
  head : ∀ q : Fin 17, q.val < 16 * (p.length / 16) → s.head[q] = p.getD q.val 0
  din : s.din = pack (finalBlock p fill)

/-- The byte at an offset of the text up to 16 is the one ENC_FINAL finds, in HEAD or in DIN (R153). -/
theorem HoldsText.padByteText_eq {p : List Byte} {fill : Block} {s : State} (h : HoldsText p fill s) {o : Nat} {pb : Byte}
    (ho : o ≤ 16) (hpb : p[o]? = some pb) : padByteText o s = pb := by
  obtain ⟨hlt, hget⟩ := List.getElem?_eq_some_iff.1 hpb
  have hlen := h.msgLen
  refine Proofs.padByteText_eq (fun hin => ?_) fun hout => ?_
  · have hhead : s.head[o] = p.getD o 0 := h.head ⟨o, by omega⟩ (hlen ▸ hin)
    rw [Vector.getElem?_eq_getElem (by omega), hhead, List.getD_eq_getElem _ _ hlt, hget]
  · have hplace : 16 * (p.length / 16) + (o - s.msgLen.toNat) = o := by omega
    rw [h.din, blk_pack, Vector.getElem?_eq_getElem (by omega), finalBlock_getElem]
    simp only [hplace]
    rw [List.getD_eq_getElem _ _ hlt, hget]

/-- The pad byte of ENC_FINAL is that of the text-level pad (R150, R152, R153). -/
theorem HoldsText.padByteOf_eq {p : List Byte} {fill : Block} {s : State} (h : HoldsText p fill s) {pb : Byte}
    (hfull : s.alphaSel = false → pb = padByteFull (BitVec.ofNat 4 (p.length % 16)))
    (htext : s.alphaSel = true → p[padOffset s.alphabet.length (BitVec.ofNat 4 (p.length % 16))]? = some pb) :
    padByteOf s.alphabet (BitVec.ofNat 4 (p.length % 16)) s = pb := by
  cases ha : s.alphaSel with
  | false => rw [padByteOf_full ha, hfull ha]
  | true =>
    have ho : padOffset s.alphabet.length (BitVec.ofNat 4 (p.length % 16)) ≤ 16 :=
      (Nat.mod_le _ _).trans (Nat.sub_le _ _)
    rw [padByteOf_text ha, h.padByteText_eq ho (htext ha)]

/-- ENC_FINAL is legal where the text has a byte to pad with (R85, R154). -/
theorem HoldsText.encFinal_legal {p : List Byte} {fill : Block} {s : State} (h : HoldsText p fill s) {pb : Byte}
    (hq : s.session = .enc) (hlen : p.length < 0xFFFFFFF0)
    (htext : s.alphaSel = true → p[padOffset s.alphabet.length (BitVec.ofNat 4 (p.length % 16))]? = some pb) :
    legality (.encFinal (BitVec.ofNat 4 (p.length % 16))) s = none := by
  have hm := h.msgLen
  refine (firstFailure_eq_none _ _).2 ⟨(requireSession_eq_none _ _).2 hq, (firstFailure_eq_none _ _).2
    ⟨(requireRoom_eq_none _).2 (by omega), (requirePadByte_eq_none _ _ _).2 fun ha => ?_⟩⟩
  obtain ⟨hlt, -⟩ := List.getElem?_eq_some_iff.1 (htext ha)
  rw [hm, ofNat_mod_toNat]
  omega

/-- ENC_FINAL shows the ciphertext of the padded text's last block (R162). -/
theorem HoldsText.encFinal_dout {p : List Byte} {fill : Block} {s : State} (h : HoldsText p fill s) {pb : Byte}
    (hpb : padByteOf s.alphabet (BitVec.ofNat 4 (p.length % 16)) s = pb) :
    blk (completed (.encFinal (BitVec.ofNat 4 (p.length % 16))) s).dout =
      encryptBlock s.alphabet (merge (blk s.chain)
        (blockAt (p ++ List.replicate (16 - p.length % 16) pb) (p.length / 16))) s.keyNat := by
  rw [← paddedBlock_finalBlock p fill, ← hpb]
  have hdin : blk s.din = finalBlock p fill := by rw [h.din, blk_pack]
  rw [← hdin]
  exact blk_pack _

/-! ### The encrypt pipeline -/

/-- The engine when ENC_FINAL is issued: the session's whole blocks are through, and DIN holds the final one (R186). -/
def beforeEncFinal (a : Bool) (k : Word) (iv fill : Block) (p : List Byte) (s : State) : State :=
  { afterBlocks .encBlock (blockAt p) (opened .enc a k iv s) (p.length / 16) with din := pack (finalBlock p fill) }

section
variable (a : Bool) (k : Word) (iv fill : Block) (p : List Byte) (s : State)

theorem beforeEncFinal_sameSession : SameSession (opened .enc a k iv s) (beforeEncFinal a k iv fill p s) :=
  (afterBlocks_sameSession (blockAt p) (opened .enc a k iv s) (.inl ⟨rfl, rfl⟩) (p.length / 16)).trans
    ⟨rfl, rfl, rfl, rfl, rfl⟩

variable {p}

/-- The whole blocks of the text have gone through HEAD, and the rest of it is in DIN (R36, R132). -/
theorem beforeEncFinal_holdsText (hlen : p.length < 0xFFFFFFF0) :
    HoldsText p fill (beforeEncFinal a k iv fill p s) := by
  have hcount : (blocksOf p).length = p.length / 16 := blocksOf_length p
  obtain ⟨hm, hhead⟩ := head_of_session (configured a k iv s) (blocksOf p) (by omega)
  have heq : afterBlocks .encBlock (blockAt p) (opened .enc a k iv s) (p.length / 16) =
      ((blocksOf p).foldl encPlaintext (startEncEffect (configured a k iv s))).finish :=
    afterBlocks_encBlock_eq (blockAt p) (configured a k iv s) (p.length / 16)
  rw [beforeEncFinal, heq]
  refine ⟨hm.trans (by rw [hcount]), fun q hq => ?_, rfl⟩
  have hbyte := hhead q
  rw [bytesOf_blocksOf_take, List.getD_eq_getElem?_getD, List.getElem?_take_of_lt hq, ← List.getD_eq_getElem?_getD]
    at hbyte
  exact hbyte

/-- With a byte to pad with, ENC_FINAL is legal, and its ciphertext follows that of the whole blocks (R131, R162). -/
theorem beforeEncFinal_completes {u : List Byte} (hu : padText a (alphabetOf a) p = some u)
    (hlen : p.length < 0xFFFFFFF0) :
    legality (.encFinal (BitVec.ofNat 4 (p.length % 16))) (beforeEncFinal a k iv fill p s) = none ∧
    cbcEncrypt (alphabetOf a) k.toNat iv (blocksOf u) =
      cbcEncrypt (alphabetOf a) k.toNat iv (blocksOf p) ++
        [blk (completed (.encFinal (BitVec.ofNat 4 (p.length % 16))) (beforeEncFinal a k iv fill p s)).dout] := by
  obtain ⟨pb, rfl, hfull, htext⟩ := padText_padByte hu
  have hsame := beforeEncFinal_sameSession a k iv fill p s
  have hholds := beforeEncFinal_holdsText a k iv fill s hlen
  have hA : (beforeEncFinal a k iv fill p s).alphabet = alphabetOf a := hsame.alphabet
  have hkey : (beforeEncFinal a k iv fill p s).keyNat = k.toNat := congrArg BitVec.toNat hsame.key
  have htext' := fun ha => hA ▸ htext (hsame.alphaSel.symm.trans ha)
  have hpb := hholds.padByteOf_eq (fun ha => hfull (hsame.alphaSel.symm.trans ha)) htext'
  have hiv : blk (opened .enc a k iv s).chain = iv := blk_pack iv
  have hchain : blk (beforeEncFinal a k iv fill p s).chain =
      (cbcEncrypt (alphabetOf a) k.toNat iv (blocksOf p)).getLastD iv := by
    have h := (encBlocks_ciphertext (blockAt p) (opened .enc a k iv s) (p.length / 16)).2
    rwa [hiv] at h
  refine ⟨hholds.encFinal_legal hsame.session hlen htext', ?_⟩
  rw [hholds.encFinal_dout hpb, hA, hkey, hchain, blocksOf_padded, cbcEncrypt_append_singleton]

variable {s}

/-- The encrypt pipeline as a run: START_ENC, the whole blocks one by one, and ENC_FINAL (R186). -/
theorem runs_encryptProgram {c : List Byte} (hr : s.rstN = true) (hp : s.pend = none) (hq : s.session = .idle)
    (hlen : p.length < 0xFFFFFFF0) (hc : encryptText a (alphabetOf a) k.toNat iv p = some c) (polls : Nat → Nat) :
    Runs (expandAll (encryptProgram a k iv polls fill p)) s
      (completed (.encFinal (BitVec.ofNat 4 (p.length % 16))) (beforeEncFinal a k iv fill p s)) c := by
  obtain ⟨u, hu, rfl⟩ := Option.map_eq_some_iff.1 hc
  obtain ⟨hlegal, hcipher⟩ := beforeEncFinal_completes a k iv fill s hu hlen
  have hiv : blk (opened .enc a k iv s).chain = iv := blk_pack iv
  have hcmd : BlockCommand .encBlock .enc := .inl ⟨rfl, rfl⟩
  have hopen := runs_open (.inl ⟨rfl, rfl⟩) hr hp hq a k iv (polls 0)
  have hroom : 0 + 16 * (p.length / 16) ≤ 0xFFFFFFF0 := by omega
  have hbody := runs_blocks (b := blockAt p) (s := opened .enc a k iv s) hcmd hr rfl rfl hroom polls
  rw [(encBlocks_ciphertext _ _ _).1, hiv] at hbody
  have hsame := afterBlocks_sameSession (blockAt p) (opened .enc a k iv s) hcmd (p.length / 16)
  have hfinal := runs_block (i := .encFinal (BitVec.ofNat 4 (p.length % 16))) (by simp) (hsame.rstN.trans hr)
    (afterBlocks_pend (blockAt p) (opened .enc a k iv s) rfl (p.length / 16))
    ((legality_congr _ rfl rfl rfl).trans hlegal) (polls (p.length / 16 + 1)) (finalBlock p fill)
  rw [hcipher, bytesOf_append, bytesOf_singleton, encryptProgram, expandAll_append, expandAll_append]
  exact (hopen.append hbody).append hfinal

end

/-- Settles O58: the run of the pipeline, whose last step is the completion of ENC_FINAL. -/
theorem encryptPipeline : Obligations.EncryptPipeline := by
  unfold Obligations.EncryptPipeline
  intro s a k iv fill polls p c rest hr hp hq hlen hc hin
  obtain ⟨t, rs, hrun, ht, hrest, hreads, hbytes⟩ :=
    runs_encryptProgram a k iv fill hr hp hq hlen hc polls s rest rfl hin
  have hm := (beforeEncFinal_holdsText a k iv fill s hlen).msgLen
  have herr : (beforeEncFinal a k iv fill p s).err = s.err := (beforeEncFinal_sameSession a k iv fill p s).err
  have hout : (beforeEncFinal a k iv fill p s).nextLen.toNat = 16 * (p.length / 16 + 1) := by
    rw [nextLen_toNat (by omega), hm]
    omega
  refine ⟨t, rs, hrun, hrest, hreads, hbytes, ?_, ?_, ?_, ?_⟩ <;> rw [ht]
  · exact herr
  · exact hout
  · rfl
  · rfl

/-! ### The unpad of the last block -/

theorem getLast?_append_block (t : List Byte) (b : Block) : (t ++ b.toList).getLast? = some b[15] := by
  rw [List.getLast?_append, List.getLast?_eq_getElem?, Vector.length_toList, List.getElem?_eq_getElem (by simp),
    Vector.getElem_toList, Option.some_or]

/-- The unpad of a text that ends in block b reads b's last byte (R156). -/
theorem unpadText_append_block (t : List Byte) (b : Block) :
    unpadText (t ++ b.toList) =
      if b[15].toNat ≤ (t ++ b.toList).length then some ((t ++ b.toList).take ((t ++ b.toList).length - b[15].toNat))
      else none := by
  rw [unpadText, getLast?_append_block]

/-- A count that fits is taken off the length (R160). -/
theorem unpadLen_toNat {T : Word} {last : Byte} (h : last.toNat ≤ T.toNat) :
    (unpadLen T last).toNat = T.toNat - last.toNat := by
  have hw : (last.setWidth 32).toNat = last.toNat := toNat_setWidth_word last (by omega)
  rw [unpadLen, if_pos h, BitVec.toNat_sub_of_le (by rw [BitVec.le_def, hw]; exact h), hw]

/-- What the completion of DEC_FINAL reports under the printable alphabet (R161). -/
theorem completed_decFinal_printable {s : State} (ha : s.alphaSel = true) :
    (completed .decFinal s).outLen = s.nextLen ∧
    (completed .decFinal s).padInfo = { padCnt := 0, padByte := 0, unpadSkipped := true } ∧
    (completed .decFinal s).err = s.err := by
  rw [completed, finish_outLen, finish_padInfo, finish_err, effectOf]
  exact decFinalEffect_printable s.alphabet s ha

/-- What it reports under the full alphabet (R160). -/
theorem completed_decFinal_full {s : State} (ha : s.alphaSel = false) :
    (completed .decFinal s).outLen = unpadLen s.nextLen (s.chainDecrypt s.alphabet)[15] ∧
    (completed .decFinal s).err =
      if (s.chainDecrypt s.alphabet)[15].toNat ≤ s.nextLen.toNat then s.err else firstError s.err .badPad := by
  obtain ⟨hout, -, herr⟩ := decFinalEffect_full s.alphabet s ha
  rw [completed, finish_outLen, finish_err, effectOf]
  exact ⟨hout, herr⟩

/-! ### The decrypt pipeline -/

/-- The engine when DEC_FINAL is issued: all blocks but the last are through, and DIN holds the last (R187). -/
def beforeDecFinal (a : Bool) (k : Word) (iv : Block) (c : List Byte) (s : State) : State :=
  { afterBlocks .decBlock (blockAt c) (opened .dec a k iv s) (c.length / 16 - 1) with
    din := pack (blockAt c (c.length / 16 - 1)) }

/-- The decrypt pipeline up to its read of OUTLEN. -/
def decryptBlocksProgram (a : Bool) (k : Word) (iv : Block) (polls : Nat → Nat) (c : List Byte) : List Stmt :=
  setupStmts a k iv ++ [.cmd .startDec, .wait (polls 0)]
    ++ (List.range (c.length / 16 - 1)).flatMap (fun j => blockStmts (polls (j + 1)) (blockAt c j) .decBlock)
    ++ blockStmts (polls (c.length / 16)) (blockAt c (c.length / 16 - 1)) .decFinal

theorem decryptProgram_eq (a : Bool) (k : Word) (iv : Block) (polls : Nat → Nat) (c : List Byte) :
    decryptProgram a k iv polls c = decryptBlocksProgram a k iv polls c ++ [.rd .outlen] := rfl

section
variable (a : Bool) (k : Word) (iv : Block) (c : List Byte) (s : State)

theorem beforeDecFinal_sameSession : SameSession (opened .dec a k iv s) (beforeDecFinal a k iv c s) :=
  (afterBlocks_sameSession (blockAt c) (opened .dec a k iv s) (.inr ⟨rfl, rfl⟩) (c.length / 16 - 1)).trans
    ⟨rfl, rfl, rfl, rfl, rfl⟩

theorem beforeDecFinal_alphabet : (beforeDecFinal a k iv c s).alphabet = alphabetOf a :=
  (beforeDecFinal_sameSession a k iv c s).alphabet

/-- The plaintext of the last ciphertext block. -/
def lastPlaintext : Block := (beforeDecFinal a k iv c s).chainDecrypt (alphabetOf a)

/-- The plaintext of the other ciphertext blocks. -/
def earlierPlaintext : List Block :=
  cbcDecrypt (alphabetOf a) k.toNat iv ((List.range (c.length / 16 - 1)).map (blockAt c))

theorem lastPlaintext_eq_dout :
    blk (completed .decFinal (beforeDecFinal a k iv c s)).dout = lastPlaintext a k iv c s := by
  rw [completed, effectOf, finish_dout, decFinalEffect_dout, blk_pack, beforeDecFinal_alphabet, lastPlaintext]

variable {c}

/-- MSGLEN counts all blocks but the last (R33). -/
theorem beforeDecFinal_msgLen (hhost : hostMayDecrypt c = true) (hlen : c.length ≤ 0xFFFFFFF0) :
    (beforeDecFinal a k iv c s).msgLen.toNat + 16 = c.length := by
  obtain ⟨hmod, hpos⟩ := (hostMayDecrypt_iff c).1 hhost
  have h := afterBlocks_msgLen (blockAt c) (opened .dec a k iv s) (i := .decBlock) (.inr ⟨rfl, rfl⟩)
    (j := c.length / 16 - 1) (by show 0 + _ ≤ _; omega)
  have hzero : (opened .dec a k iv s).msgLen.toNat = 0 := rfl
  have hbefore : (beforeDecFinal a k iv c s).msgLen.toNat = 0 + 16 * (c.length / 16 - 1) := hzero ▸ h
  omega

theorem beforeDecFinal_nextLen (hhost : hostMayDecrypt c = true) (hlen : c.length ≤ 0xFFFFFFF0) :
    (beforeDecFinal a k iv c s).nextLen.toNat = c.length := by
  have h := beforeDecFinal_msgLen a k iv s hhost hlen
  rw [nextLen_toNat (by omega), h]

theorem beforeDecFinal_legal (hhost : hostMayDecrypt c = true) (hlen : c.length ≤ 0xFFFFFFF0) :
    legality .decFinal (beforeDecFinal a k iv c s) = none := by
  have h := beforeDecFinal_msgLen a k iv s hhost hlen
  have hq : (beforeDecFinal a k iv c s).session = .dec := (beforeDecFinal_sameSession a k iv c s).session
  exact (firstFailure_eq_none _ _).2
    ⟨(requireSession_eq_none _ _).2 hq, (requireRoom_eq_none _).2 (by omega)⟩

/-- The decrypted text ends in the plaintext of the last block (R131, R187). -/
theorem decryptPadded_eq_append (hhost : hostMayDecrypt c = true) :
    decryptPadded (alphabetOf a) k.toNat iv c =
      bytesOf (earlierPlaintext a k iv c) ++ (lastPlaintext a k iv c s).toList := by
  obtain ⟨hmod, hpos⟩ := (hostMayDecrypt_iff c).1 hhost
  have hcount : c.length / 16 = (c.length / 16 - 1) + 1 := by omega
  have hsplit : blocksOf c =
      (List.range (c.length / 16 - 1)).map (blockAt c) ++ [blockAt c (c.length / 16 - 1)] := by
    rw [blocksOf, hcount, List.range_succ, List.map_append, List.map_singleton, Nat.add_sub_cancel]
  have hiv : blk (opened .dec a k iv s).chain = iv := blk_pack iv
  have hchain : blk (beforeDecFinal a k iv c s).chain =
      ((List.range (c.length / 16 - 1)).map (blockAt c)).getLastD iv := by
    have h := (decBlocks_plaintext (blockAt c) (opened .dec a k iv s) (c.length / 16 - 1)).2
    rwa [hiv] at h
  have hkey : (beforeDecFinal a k iv c s).keyNat = k.toNat :=
    congrArg BitVec.toNat (beforeDecFinal_sameSession a k iv c s).key
  have hdin : blk (beforeDecFinal a k iv c s).din = blockAt c (c.length / 16 - 1) := blk_pack _
  rw [decryptPadded, hsplit, cbcDecrypt_append_singleton, bytesOf_append, bytesOf_singleton, earlierPlaintext,
    lastPlaintext, State.chainDecrypt, hchain, hkey, hdin]

/-- The source's decrypt reads its pad count from the last byte of the last block (R156, R187). -/
theorem decryptText_eq_ite (hhost : hostMayDecrypt c = true) :
    decryptText (alphabetOf a) k.toNat iv c =
      if (lastPlaintext a k iv c s)[15].toNat ≤ c.length then
        some ((decryptPadded (alphabetOf a) k.toNat iv c).take (c.length - (lastPlaintext a k iv c s)[15].toNat))
      else none := by
  have hlen := decryptPadded_length (alphabetOf a) k.toNat iv ((hostMayDecrypt_iff c).1 hhost).1
  rw [decryptText, if_pos hhost]
  rw [decryptPadded_eq_append a k iv s hhost] at hlen ⊢
  rw [unpadText_append_block, hlen]

variable {s}

/-- The decrypt pipeline up to its read of OUTLEN, as a run: START_DEC, the blocks one by one, and DEC_FINAL (R187). -/
theorem runs_decryptBlocksProgram (hr : s.rstN = true) (hp : s.pend = none) (hq : s.session = .idle)
    (hhost : hostMayDecrypt c = true) (hlen : c.length ≤ 0xFFFFFFF0) (polls : Nat → Nat) :
    Runs (expandAll (decryptBlocksProgram a k iv polls c)) s (completed .decFinal (beforeDecFinal a k iv c s))
      (decryptPadded (alphabetOf a) k.toNat iv c) := by
  have hiv : blk (opened .dec a k iv s).chain = iv := blk_pack iv
  have hcmd : BlockCommand .decBlock .dec := .inr ⟨rfl, rfl⟩
  have hopen := runs_open (.inr ⟨rfl, rfl⟩) hr hp hq a k iv (polls 0)
  have hroom : 0 + 16 * (c.length / 16 - 1) ≤ 0xFFFFFFF0 := by omega
  have hbody := runs_blocks (b := blockAt c) (s := opened .dec a k iv s) hcmd hr rfl rfl hroom polls
  rw [(decBlocks_plaintext _ _ _).1, hiv] at hbody
  have hsame := afterBlocks_sameSession (blockAt c) (opened .dec a k iv s) hcmd (c.length / 16 - 1)
  have hfinal := runs_block (i := .decFinal) (by decide) (hsame.rstN.trans hr)
    (afterBlocks_pend (blockAt c) (opened .dec a k iv s) rfl (c.length / 16 - 1))
    ((legality_congr _ rfl rfl rfl).trans (beforeDecFinal_legal a k iv s hhost hlen)) (polls (c.length / 16))
    (blockAt c (c.length / 16 - 1))
  rw [decryptPadded_eq_append a k iv s hhost, ← lastPlaintext_eq_dout, decryptBlocksProgram, expandAll_append,
    expandAll_append]
  exact (hopen.append hbody).append hfinal

variable (s)

/-- Under the printable alphabet OUTLEN is the whole length (R161). -/
theorem decFinal_report_printable (hhost : hostMayDecrypt c = true) (hlen : c.length ≤ 0xFFFFFFF0) :
    (completed .decFinal (beforeDecFinal true k iv c s)).outLen.toNat = c.length ∧
    (completed .decFinal (beforeDecFinal true k iv c s)).padInfo.unpadSkipped = true ∧
    (completed .decFinal (beforeDecFinal true k iv c s)).err = s.err := by
  have hsame := beforeDecFinal_sameSession true k iv c s
  have herr0 : (beforeDecFinal true k iv c s).err = s.err := hsame.err
  obtain ⟨hout, hinfo, herr⟩ := completed_decFinal_printable hsame.alphaSel
  rw [hout, hinfo, herr, beforeDecFinal_nextLen true k iv s hhost hlen]
  exact ⟨rfl, rfl, herr0⟩

/-- Under the full alphabet OUTLEN and ERR tell the source's unpad of the decrypted text (R160). -/
theorem decFinal_report_full (hhost : hostMayDecrypt c = true) (hlen : c.length ≤ 0xFFFFFFF0) :
    (∀ p, decryptText fullAlphabet k.toNat iv c = some p →
      (decryptPadded fullAlphabet k.toNat iv c).take
        (completed .decFinal (beforeDecFinal false k iv c s)).outLen.toNat = p ∧
      (completed .decFinal (beforeDecFinal false k iv c s)).err = s.err) ∧
    (decryptText fullAlphabet k.toNat iv c = none →
      (completed .decFinal (beforeDecFinal false k iv c s)).outLen = 0 ∧
      (completed .decFinal (beforeDecFinal false k iv c s)).err = if s.err = .none then .badPad else s.err) := by
  have hsame := beforeDecFinal_sameSession false k iv c s
  have herr0 : (beforeDecFinal false k iv c s).err = s.err := hsame.err
  have hnext := beforeDecFinal_nextLen false k iv s hhost hlen
  have htext : decryptText fullAlphabet k.toNat iv c = _ := decryptText_eq_ite false k iv s hhost
  obtain ⟨hout, herr⟩ := completed_decFinal_full hsame.alphaSel
  rw [beforeDecFinal_alphabet, ← lastPlaintext, hnext, herr0] at herr
  rw [beforeDecFinal_alphabet, ← lastPlaintext] at hout
  rw [htext, hout, herr]
  by_cases hfits : (lastPlaintext false k iv c s)[15].toNat ≤ c.length
  · rw [if_pos hfits, if_pos hfits, unpadLen_toNat (by rwa [hnext]), hnext]
    exact ⟨fun p hp => ⟨Option.some.inj hp, rfl⟩, nofun⟩
  · rw [if_neg hfits, if_neg hfits, unpadLen, if_neg (by rwa [hnext])]
    exact ⟨nofun, fun _ => ⟨rfl, rfl⟩⟩

end

/-- The last statement of the pipeline: OUTLEN is read and nothing is changed (R61, R187). -/
theorem run_rd_outlen {s : State} {rest : List Event} (hr : s.rstN = true) (hp : s.pend = none)
    (hin : s.inputs = expandAll [.rd .outlen] ++ rest) :
    Sys2Proof.core.run (expandAll [.rd .outlen]).length s = .next
      { s with reads := s.reads ++ [{ off := offsetOf .outlen, value := s.outLen }], inputs := rest } := by
  have hreg : regAt (offsetOf .outlen) = .outlen := (regAt_offsetOf .outlen).1
  have hstep := readReturnsTheRegister.1 s (offsetOf .outlen) rest hr hin (.inl ((busy_eq_false_iff s).2 hp))
  rw [hreg] at hstep
  exact run_succ_of_step 0 hstep

theorem doutBytes_outlen (v : Word) : doutBytes [{ off := offsetOf .outlen, value := v }] = [] := by
  simp [doutBytes, (regAt_offsetOf .outlen).1]

/-- Settles O59: the run of the blocks, whose last step is the completion of DEC_FINAL, and then the read of OUTLEN. -/
theorem decryptPipeline : Obligations.DecryptPipeline := by
  unfold Obligations.DecryptPipeline
  intro s a k iv polls c rest hr hp hq hhost hlen hin
  rw [decryptProgram_eq, expandAll_append] at hin ⊢
  rw [List.append_assoc] at hin
  obtain ⟨v, rs, hrun, hv, hinv, hreads, hbytes⟩ :=
    runs_decryptBlocksProgram a k iv hr hp hq hhost hlen polls s _ rfl hin
  have hrv : v.rstN = true := by
    rw [hv, completed, finish_rstN, effectOf_rstN]
    exact (beforeDecFinal_sameSession a k iv c s).rstN.trans hr
  have hpv : v.pend = none := by rw [hv]; rfl
  have hqv : v.session = .idle := by rw [hv]; exact decFinalEffect_session _ _
  have houtv : v.outLen = (completed .decFinal (beforeDecFinal a k iv c s)).outLen := by rw [hv]
  have hinfov : v.padInfo = (completed .decFinal (beforeDecFinal a k iv c s)).padInfo := by rw [hv]
  have herrv : v.err = (completed .decFinal (beforeDecFinal a k iv c s)).err := by rw [hv]
  have hdout : doutBytes (rs ++ [{ off := offsetOf .outlen, value := v.outLen }]) =
      decryptPadded (alphabetOf a) k.toNat iv c := by
    rw [doutBytes_append, doutBytes_outlen, List.append_nil, hbytes]
  refine ⟨{ v with reads := v.reads ++ [{ off := offsetOf .outlen, value := v.outLen }], inputs := rest },
    rs ++ [{ off := offsetOf .outlen, value := v.outLen }], ?_, rfl, ?_, hqv, hpv, hdout, ?_, ?_⟩
  · rw [List.length_append, run_add _ hrun, run_rd_outlen hrv hpv hinv]
  · rw [← List.append_assoc, ← hreads]
  · rw [List.getLast?_concat]
  · show (a = true → v.outLen.toNat = c.length ∧ v.padInfo.unpadSkipped = true ∧ v.err = s.err) ∧
      (∀ p, a = false → decryptText fullAlphabet k.toNat iv c = some p →
        (doutBytes (rs ++ [{ off := offsetOf .outlen, value := v.outLen }])).take v.outLen.toNat = p ∧
          v.err = s.err) ∧
      (a = false → decryptText fullAlphabet k.toNat iv c = none →
        v.outLen = 0 ∧ v.err = if s.err = .none then .badPad else s.err)
    rw [hdout, houtv, hinfov, herrv]
    cases a with
    | true => exact ⟨fun _ => decFinal_report_printable k iv s hhost hlen, nofun, nofun⟩
    | false =>
      obtain ⟨hsome, hnone⟩ := decFinal_report_full k iv s hhost hlen
      exact ⟨nofun, fun p _ => hsome p, fun _ => hnone⟩

end Sys2Proof.Proofs

/-! Errors, DONE and the interrupt (spec 60_exceptions.md R200 to R210): what a rejected command changes, that the first
error is kept until it is cleared, and how a completion and a STATUS write move DONE and irq. -/

namespace Sys2Proof.Proofs

open Sys2Proof Sys2Proof.Machine Sys2Proof.Laws

/-! ### A rejected command -/

/-- All that the step of a CMD write can do: nothing (NOP), record one error, or put a command in flight where there was
none (R84, R85, R182). -/
theorem step_cmdWrite_cases {s t : State} {w : Word} {rest : List Event} (hr : s.rstN = true)
    (hin : s.inputs = cmdWrite w :: rest) (hs : step s = .next t) :
    t = s.endStep ∨ (∃ c, t = (recordError c s).endStep) ∨ ∃ i, s.pend = none ∧ t = (s.accept i).endStep := by
  cases hd : decode w with
  | error e => exact .inr (.inl ⟨_, Host.Outcome.next.inj (hs.symm.trans (step_cmdWrite_illegal hr hin hd))⟩)
  | ok i =>
    by_cases hnop : i = .nop
    · subst hnop
      have hexec : step s = .next s.endStep := by rw [step_cmdWrite hr hin, hd]; rfl
      exact .inl (Host.Outcome.next.inj (hs.symm.trans hexec))
    · obtain rfl := Host.Outcome.next.inj (hs.symm.trans (step_cmdWrite_issue hr hin hd hnop))
      rcases issue_cases i (legality i s) s with ⟨_, h⟩ | ⟨c, _, _, h⟩ | ⟨hp, _, h⟩ <;> rw [h]
      · exact .inr (.inl ⟨.busy, rfl⟩)
      · exact .inr (.inl ⟨c, rfl⟩)
      · exact .inr (.inr ⟨i, hp, rfl⟩)

/-- Settles O7: an accepted command changes PEND, so what is left is NOP and a recorded error. -/
theorem rejectedCommandChangesOnlyErr : Obligations.RejectedCommandChangesOnlyErr := by
  unfold Obligations.RejectedCommandChangesOnlyErr
  intro s t w rest hr hin hs hpend
  have hrest : s.inputs.tail = rest := by rw [hin]; rfl
  subst hrest
  rcases step_cmdWrite_cases hr hin hs with rfl | ⟨c, rfl⟩ | ⟨i, hp, rfl⟩
  · exact ⟨rfl, fun _ => rfl⟩
  · exact ⟨rfl, firstError_of_ne c⟩
  · rw [endStep_pend, accept_pend, hp] at hpend
    cases hpend

/-! ### The first error is kept -/

/-- The host's next access writes STATUS with ERRCLR set, by offset or by platform address (R27, R207). -/
def ClearsErr (s : State) : Prop :=
  ∃ op off w, (s.inputs.head? = some (busWriteEvent off w) ∨
    ∃ addr, s.inputs.head? = some (.busAt addr .word op) ∧ op = .write w ∧ Config.windowOffset addr = some off) ∧
    regAt off = .status ∧ w.getLsbD 8 = true

/-- An issue leaves ERR as it was or records one error (R85, R203). -/
theorem issue_err (i : Instr) (r : Option ErrCode) (s : State) :
    (issue i r s).err = s.err ∨ ∃ c, (issue i r s).err = firstError s.err c := by
  rcases issue_cases i r s with ⟨_, h⟩ | ⟨c, _, _, h⟩ | ⟨_, _, h⟩ <;> rw [h]
  · exact .inr ⟨.busy, rfl⟩
  · exact .inr ⟨c, rfl⟩
  · exact .inl rfl

/-- All that a step can do to ERR: keep it, record one error, or clear it, by reset or by ERRCLR (R203, R207, R230). -/
theorem step_err {s t : State} (hs : step s = .next t) :
    t.err = s.err ∨ (∃ c, t.err = firstError s.err c) ∨ (t.err = .none ∧ (s.resets ∨ ClearsErr s)) := by
  cases step_cases hs with
  | completes i =>
    rw [endStep_err, finish_err]
    rcases effectOf_err i s with h | ⟨_, _, h⟩
    · exact .inl h
    · exact .inr (.inl ⟨.badPad, h⟩)
  | idle => exact .inl rfl
  | read off => exact .inl (by rw [sameEngine_read off s])
  | write off w _ _ _ hi =>
    rw [endStep_err]
    rcases writeReg_err (regAt off) w s with h | ⟨hstatus, hbit, h⟩ | h
    · exact .inl h
    · have haccess : ClearsErr s :=
        ⟨.write w, off, w, hi.imp_right fun ⟨addr, hhead, hoff⟩ => ⟨addr, hhead, rfl, hoff⟩, hstatus, hbit⟩
      exact .inr (.inr ⟨h, .inr haccess⟩)
    · exact .inr (.inl h)
  | issue i =>
    rw [endStep_err]
    exact (issue_err i _ s).imp_right .inl
  | illegal =>
    rw [issueIllegal_eq]
    exact .inr (.inl ⟨_, rfl⟩)
  | reset hi => exact .inr (.inr ⟨rfl, .inl (.inl hi)⟩)
  | rstLow hi => exact .inr (.inr ⟨rfl, .inl (.inr hi)⟩)
  | rstHigh => exact .inl rfl

/-- Settles O30: recording an error keeps the one that is held, so a change of ERR clears it. -/
theorem firstErrorIsKept : Obligations.FirstErrorIsKept := by
  unfold Obligations.FirstErrorIsKept
  intro s t herr hs hne
  rcases step_err hs with h | ⟨c, h⟩ | h
  · exact absurd h hne
  · exact absurd (h.trans (firstError_of_ne c herr)) hne
  · exact h

/-! ### DONE and the interrupt -/

theorem effectOf_ieDone (i : Instr) (s : State) : (effectOf i s).ieDone = s.ieDone := by
  rw [effectOf_frame]

/-- A completion sets DONE, so it raises irq where IE_DONE is set (R209). -/
theorem completion_irq {s : State} (hie : s.ieDone = true) (i : Instr) : (effectOf i s).finish.endStep.irq = true := by
  simp [State.irq, effectOf_ieDone, hie]

/-- With neither DONE nor an error there is no interrupt, whatever IRQEN enables (R38). -/
theorem irq_of_clear {s : State} (hd : s.done = false) (he : s.err = .none) : s.irq = false := by
  simp [State.irq, hd, he]

/-- Settles O35: the completion sets DONE, and 0x108 has the bits that clear DONE and ERR. -/
theorem interruptRaisedAndAcknowledged : Obligations.InterruptRaisedAndAcknowledged := by
  unfold Obligations.InterruptRaisedAndAcknowledged
  constructor
  · rintro s t h ⟨_, hm, hb⟩ hie hs
    obtain ⟨i, hp⟩ := (busy_eq_true_iff s).1 hb
    obtain rfl := Host.Outcome.next.inj ((step_completion h hp hm).symm.trans hs)
    exact completion_irq hie i
  · intro s t off rest hr hreg hin hs
    obtain rfl := Host.Outcome.next.inj ((statusWriteClearsDoneAndErr s off _ rest hr hreg hin).symm.trans hs)
    exact irq_of_clear rfl rfl

/-- Settles O36: the STATUS write leaves the command in flight, and its completion sets DONE. -/
theorem doneSetBeatsSameCycleClear : Obligations.DoneSetBeatsSameCycleClear := by
  unfold Obligations.DoneSetBeatsSameCycleClear
  intro s w rest h hr hb hin
  obtain ⟨i, hp⟩ := (busy_eq_true_iff s).1 hb
  have hwrite := statusWriteClearsDoneAndErr s 0x08 w (.engine :: rest) hr (by decide) hin
  have hcompletes := step_completion (everyStepKeepsTheInvariant s _ h hwrite) hp rfl
  refine ⟨_, (run_succ_of_step 1 hwrite).trans (run_succ_of_step 0 hcompletes), rfl, rfl, ?_⟩
  rw [step_inputs hcompletes]
  rfl

end Sys2Proof.Proofs

/-! Reset (spec 70_reset_and_hazards.md R230 to R232): the three reset events, and the accesses made while the engine is
held in reset. -/

namespace Sys2Proof.Proofs

open Sys2Proof Sys2Proof.Machine Sys2Proof.Laws

/-! ### The reset events -/

theorem step_reset {s : State} {rest : List Event} (hi : s.inputs = .reset :: rest) :
    step s = .next (resetPulse s) := by
  rw [step_eq_outcomeOf, fetch, hi, outcomeOf]

theorem step_rstLow {s : State} {rest : List Event} (hi : s.inputs = .rstLow :: rest) :
    step s = .next (assertReset s) := by
  rw [step_eq_outcomeOf, fetch, hi, outcomeOf]

theorem step_rstHigh {s : State} {rest : List Event} (hi : s.inputs = .rstHigh :: rest) :
    step s = .next (releaseReset s) := by
  rw [step_eq_outcomeOf, fetch, hi, outcomeOf]

/-! ### Accesses while rst_n is low -/

/-- The end of a step consumes the event at the head. -/
theorem endStep_of_inputs {s : State} {e : Event} {rest : List Event} (hi : s.inputs = e :: rest) :
    s.endStep = { s with inputs := rest } := by
  rw [State.endStep, hi, List.tail_cons]

/-- A write in reset, to CMD too, does nothing but end its step (R230). -/
theorem step_write_held {s : State} {off : BitVec 8} {w : Word} {rest : List Event} (hr : s.rstN = false)
    (hi : s.inputs = busWriteEvent off w :: rest) : step s = .next s.endStep := by
  have hfetch : fetchAccess { width := .word, off := off, op := .write w } s = .answer (.next s.endStep) :=
    fetchWrite_held hr off w
  rw [step_access hi, hfetch, outcomeOf]

/-- A read in reset answers 0, at every offset (R230). -/
theorem busRead_held {s : State} (hr : s.rstN = false) (off : BitVec 8) : busRead off s = s.answerRead off 0 := by
  simp [busRead, hr]

/-- Settles O37: one lemma per event, and the event at the head consumed. -/
theorem resetEvents : Obligations.ResetEvents := by
  unfold Obligations.ResetEvents
  intro s rest
  refine ⟨fun hi => ?_, fun hi => ?_, fun hi => ?_, fun off w hr hi => ?_, fun off hr hi => ?_⟩
  · rw [step_reset hi, resetPulse, hi, List.tail_cons]
  · rw [step_rstLow hi, assertReset, resetPulse, hi, List.tail_cons]
  · rw [step_rstHigh hi, releaseReset, hi, List.tail_cons]
  · rw [step_write_held hr hi, endStep_of_inputs hi]
  · rw [step_read hi, busRead_held hr, endStep_of_inputs (s := s.answerRead off 0) hi, State.answerRead]

end Sys2Proof.Proofs
